-- ==== Sys2Proof/Word.lean ====
section
/-! DEFINITION. The widths of the values the rocking-stand CORE handles (00_scope.md R6, R7, R9; 20_memory.md R45).

One name per kind of value, each an abbreviation of a core bit-vector type, so that the library's lemmas apply.
Bit 0 is the least significant bit of every one of them (R9). -/

namespace Sys2Proof

/-- One micro-operation word, `UOP_W` = 8 bits (R7, R66). -/
abbrev Byte := BitVec 8

/-- An 8-bit phase angle, `ANGLE_W` (R6, R60): the pattern `a` stands for a·π/128 radians. -/
abbrev Angle := BitVec 8

/-- An 8-bit sine pattern, `SINE_W` (R6, R25, R61, R62): untyped, read signed by PWCALC. -/
abbrev Sine := BitVec 8

/-- The Phase Angle, `PHASE_W` = 16 bits (R7, R21, R64): unsigned 8.8 fixed point. -/
abbrev Phase := BitVec 16

/-- A full-precision sample, `OFFSET_W` = `SPEED_W` = 10 bits, straight unsigned (R6, R63). -/
abbrev Sample10 := BitVec 10

/-- A low-precision sample, `AMPL_W` = 8 bits, straight unsigned (R6, R63). -/
abbrev Sample8 := BitVec 8

/-- A duration in microseconds, `PW_W` = 16 bits, unsigned (R7, R65). -/
abbrev Duration := BitVec 16

/-- An analog channel number, 2 bits: one of the `N_CHANNELS` = 4 channels 0..3 (R6, R41). -/
abbrev Channel := BitVec 2

/-- An output line identifier, 3 bits in the port binding (R8, R42). -/
abbrev Line := BitVec 3

/-- The sequencer step register's contents, `SEQ_W` = 5 bits (R7, R28). -/
abbrev StepNo := BitVec 5

end Sys2Proof
end

