-- ==== Sys2Proof/Config.lean ====
section
/-! DEFINITION. What an implementation fixes (00_scope.md R6, R7, R8) and the values nobody fixes (20_memory.md R47).

Three kinds of thing stand here.
(1) `Params`: the build-time parameters, as plain data that the model takes as an argument (R6, R7, R8). State carries
    one `Params` that no step changes (R30, R33; log entry 2).
(2) The OPEN constants `open…`: the parameters to which the spec gives no number (R8). They have no body, so nothing can
    be proved of their values; `Params.build` uses them, and the machine at reset has `Params.build` (log entry 3).
(3) The free values `free…`: what the environment answers once its script in State is used up (R47, R171; log entry 4), and
    whether the line rises in a pulse of width 0 (R142; log entry 25). -/

namespace Sys2Proof

/-- Which square approximation is built in, `SQ_IMPL` (R7): a build-time selection without an observable effect. -/
inductive SqImpl where
  /-- the multiply-based form SQ8M (R81) -/
  | mul
  /-- the bit-only form SQ8B (R84) -/
  | bitOnly
  deriving DecidableEq, Repr, Inhabited

/-- The build-time parameters of the CORE (R6, R7, R8), constant for the life of the hardware (R30). -/
structure Params where
  /-- `OFFSET_MID`, subtracted from the offset sample; reference value 512 (R6) -/
  offsetMid : Nat
  /-- `OFFSET_SHIFT`, left shift of the centred offset; reference value 1 (R6) -/
  offsetShift : Nat
  /-- `AMP_SHIFT`, right shift of sine times amplitude; reference value 6 (R6) -/
  ampShift : Nat
  /-- `SPEED_SHIFT`, left shift of the speed sample; reference value 2 (R6) -/
  speedShift : Nat
  /-- `SQ_IMPL` (R7) -/
  sqImpl : SqImpl
  /-- `PW_CENTER`, OPEN (R8) -/
  pwCenter : Duration
  /-- `CH_OFFSET`, OPEN (R8) -/
  chOffset : Channel
  /-- `CH_SPEED`, OPEN (R8) -/
  chSpeed : Channel
  /-- `CH_AMPL`, OPEN (R8) -/
  chAmpl : Channel
  /-- `PULSE_LINE`, OPEN (R8) -/
  pulseLine : Line
  /-- `T_SAMPLE_US`, OPEN (R8) -/
  tSampleUs : Duration
  /-- `PW_SAFE_MIN`, OPEN (R8); read only by the safety condition of R125 -/
  pwSafeMin : Nat
  /-- `PW_SAFE_MAX`, OPEN (R8); read only by the safety condition of R125 -/
  pwSafeMax : Nat
  deriving DecidableEq, Repr

namespace Config

/-- `SQ_SHIFT`: right shift applied to the 16-bit square (R6). -/
abbrev sqShift : Nat := 7

/-- `SQ_ITER`: iterations of the bit-only loop (R6, R84). -/
abbrev sqIter : Nat := 8

/-- The largest number of entries a sequence may have: `SEQ_W` = 5 (R7, R150). -/
abbrev seqMax : Nat := 32

/-- `SEQ_LEN`: entries of the reference sequence (R7, R146). -/
abbrev seqLen : Nat := 20

/-- `PW_CENTER` of the built machine: OPEN (R8, D9). -/
opaque openPwCenter : Duration

/-- Which of the 24 assignments of three distinct channels to the three potentiometers was built: OPEN (R8, D10). -/
opaque openChannels : Fin 24

/-- `PULSE_LINE` of the built machine: OPEN (R8, D11). -/
opaque openPulseLine : Line

/-- `T_SAMPLE_US` of the built machine: OPEN (R8, D12). -/
opaque openTSampleUs : Duration

/-- `PW_SAFE_MIN`: OPEN (R8). -/
opaque openPwSafeMin : Nat

/-- `PW_SAFE_MAX`: OPEN (R8). -/
opaque openPwSafeMax : Nat

/-- `SQ_IMPL` of the built machine: a build-time selection the spec leaves to the implementation (R7, D7). -/
opaque openSqImpl : SqImpl

/-- The full-precision sample the converter answers at the n-th read, when State's script of answers is used up (R47). -/
opaque freeSample10 : Nat → Sample10

/-- The low-precision sample the converter answers at the n-th read, when the script of answers is used up (R47). -/
opaque freeSample8 : Nat → Sample8

/-- Whether the environment finishes a conversion in flight at the n-th step, when the script of moves is used up (R171). -/
opaque freeConvDone : Nat → Bool

/-- Whether the environment finishes a running delay at the n-th step, when the script of moves is used up (R171). -/
opaque freeDelayDone : Nat → Bool

/-- Whether the environment finishes a running pulse at the n-th step, when the script of moves is used up (R171). -/
opaque freePulseDone : Nat → Bool

/-- Whether the line rises at all in a pulse of width 0 that is called at the n-th step: a minimal pulse or one of length
zero, which R142 leaves to the collaborator (log entry 25). -/
opaque freeZeroWidthRises : Nat → Bool

/-- The k-th ordered triple of pairwise distinct channels (offset, speed, amplitude): k / 6 names the first, the rest of
k the second among the three left and the third among the two left. R8 asks for three distinct channels 0..3 and nothing
more, so all 24 triples are reached. -/
def channelTriple (k : Fin 24) : Channel × Channel × Channel :=
  let all : List Channel := [0, 1, 2, 3]
  let a := all.getD (k.val / 6) 0
  let left := all.erase a
  let b := left.getD (k.val % 6 / 2) 0
  let c := (left.erase b).getD (k.val % 2) 0
  (a, b, c)

end Config

/-- The parameters of the machine as built: the gains at the source's reference values (R6, D20), everything the spec
leaves OPEN at a constant without a body (R8). -/
def Params.build : Params where
  offsetMid := 512
  offsetShift := 1
  ampShift := 6
  speedShift := 2
  sqImpl := Config.openSqImpl
  pwCenter := Config.openPwCenter
  chOffset := (Config.channelTriple Config.openChannels).1
  chSpeed := (Config.channelTriple Config.openChannels).2.1
  chAmpl := (Config.channelTriple Config.openChannels).2.2
  pulseLine := Config.openPulseLine
  tSampleUs := Config.openTSampleUs
  pwSafeMin := Config.openPwSafeMin
  pwSafeMax := Config.openPwSafeMax

/-- Instantiation P0 of R8, the spec's own illustration: PW_CENTER 1500, channels 1, 2, 3, line 0, T_SAMPLE_US 6000. The
spec gives no safe range, so the range here is the whole of a duration; only examples and tests use P0. -/
def Params.p0 : Params where
  offsetMid := 512
  offsetShift := 1
  ampShift := 6
  speedShift := 2
  sqImpl := .mul
  pwCenter := 1500
  chOffset := 1
  chSpeed := 2
  chAmpl := 3
  pulseLine := 0
  tSampleUs := 6000
  pwSafeMin := 0
  pwSafeMax := 65535

/-- Instantiation P1 of R8: P0 with PW_CENTER 2048, which meets the no-wrap condition of R125. -/
def Params.p1 : Params := { Params.p0 with pwCenter := 2048 }

/-- The four gains have the source's reference values (R6). Every number in the rules R121 to R126 and R131 to R135 is
for these values (D20), so statements that use those numbers take this as a premise. -/
abbrev Params.ReferenceGains (p : Params) : Prop :=
  p.offsetMid = 512 ∧ p.offsetShift = 1 ∧ p.ampShift = 6 ∧ p.speedShift = 2

end Sys2Proof
end

