-- ==== Sys2Proof/Syntax.lean ====
section
/-! DEFINITION. The twelve micro-operations (30_encoding.md R67), and the assembler level above them (R73).

One constructor of `Instr` per row of spec/opcode_table.json. Every operand has the width of its field (R69), so a term of
`Instr` is a micro-operation with operands the encoding admits. -/

namespace Sys2Proof

/-- The destination of a full-precision read: the operand `d` of RD10 (R69, R104). -/
inductive Dest10 where
  /-- d = 0 -/
  | offset
  /-- d = 1 -/
  | speed
  deriving DecidableEq, Repr

/-- The micro-operations (R67). -/
inductive Instr where
  /-- `SEL ch` (R100) -/
  | sel (ch : Channel)
  /-- `CONV` (R101) -/
  | conv
  /-- `DLY` (R102) -/
  | dly
  /-- `WAIT` (R103) -/
  | wait
  /-- `RD10 d` (R104) -/
  | rd10 (d : Dest10)
  /-- `RD8` (R105) -/
  | rd8
  /-- `SIN8` (R87) -/
  | sin8
  /-- `USIN8` (R89) -/
  | usin8
  /-- `PWCALC` (R120) -/
  | pwcalc
  /-- `PHADV` (R131) -/
  | phadv
  /-- `PULSE` (R140) -/
  | pulse
  /-- `LOOP` (R143) -/
  | loop
  deriving DecidableEq, Repr

/-- One line of assembler: a micro-operation or one of the two pseudo-instructions (R73). -/
inductive AsmLine where
  /-- a micro-operation as it stands -/
  | op (i : Instr)
  /-- `SAMPLE10 ch, d` -/
  | sample10 (ch : Channel) (d : Dest10)
  /-- `SAMPLE8 ch` -/
  | sample8 (ch : Channel)
  deriving DecidableEq, Repr

/-- The expansion of one assembler line, the acquisition pattern of R73 and R106: select, begin, delay, wait, read. -/
def AsmLine.expand : AsmLine → List Instr
  | .op i => [i]
  | .sample10 ch d => [.sel ch, .conv, .dly, .wait, .rd10 d]
  | .sample8 ch => [.sel ch, .conv, .dly, .wait, .rd8]

/-- A sequence of assembler lines as micro-operations. -/
def assemble (ls : List AsmLine) : List Instr := ls.flatMap AsmLine.expand

end Sys2Proof
end

