-- ==== Sys2Proof/WellFormed.lean ====
section
/-! DEFINITION. What a model must check before it runs: the sequence it is given (44_emit_sequencer.md R150) and the OPEN
parameters (00_scope.md R8).

A single `Instr` needs no check: each operand has exactly the width of its field (30_encoding.md R69), and every value of
that width is legal (20_memory.md R44). Illegal WORDS are the decoder's business (Decode.lean, R71). -/

namespace Sys2Proof

/-- R150: the sequence has 1 to 32 entries. -/
def lengthOk (is : List Instr) : Bool := decide (1 ≤ is.length) && decide (is.length ≤ Config.seqMax)

/-- R150: the last entry is LOOP. -/
def endsInLoop (is : List Instr) : Bool := is.getLast? == some .loop

/-- R150: a sequence of legal words is admitted when its length is 1..32 and its last word is LOOP. -/
def sequenceWellFormed (is : List Instr) : Bool := lengthOk is && endsInLoop is

/-- R8: the three potentiometer channels are pairwise distinct. (Their range 0..3, the line's range 0..7 and the range
0..65535 of PW_CENTER and T_SAMPLE_US are in the types.) -/
def Params.channelsDistinct (p : Params) : Bool :=
  p.chOffset != p.chSpeed && p.chOffset != p.chAmpl && p.chSpeed != p.chAmpl

end Sys2Proof
end

