-- ==== Sys2Proof/Decode.lean ====
section
/-! DEFINITION. The decoder and the encoder of micro-operation words (30_encoding.md R66 to R72), and the reference
sequence as words (44_emit_sequencer.md R146).

The decoder follows R68 field by field. The match and mask pairs of R68 stand beside it as a table of their own, written
from the spec a second time; Laws/Decode.lean shows that the two agree. -/

namespace Sys2Proof

/-- Why a word is illegal (R71). -/
inductive DecodeError where
  /-- the operation code is one of 0xB..0xF, which are unassigned (R70, R71) -/
  | unassignedOp
  /-- a bit of the argument that R67 requires to be 0 is 1 (R71) -/
  | argumentBits
  deriving DecidableEq, Repr

/-- The operation code, `op` = w[7:4] (R66, R68). -/
def opField (w : Byte) : BitVec 4 := w.extractLsb' 4 4

/-- The argument, `arg` = w[3:0] (R66, R68). -/
def argField (w : Byte) : BitVec 4 := w.extractLsb' 0 4

/-- The immediate of SEL: ch = w[1:0] (R69). -/
def chField (w : Byte) : Channel := w.extractLsb' 0 2

/-- The immediate of RD10: d = w[0], 0 OFFSET and 1 SPEED (R69). -/
def destField (w : Byte) : Dest10 := if w.getLsbD 0 then .speed else .offset

/-- A micro-operation without an operand: all four argument bits must be 0 (R67). -/
def noArg (w : Byte) (i : Instr) : Except DecodeError Instr :=
  if argField w = 0 then .ok i else .error .argumentBits

/-- Decoding of one word, total and by name (R68, R71). -/
def decodeWord (w : Byte) : Except DecodeError Instr :=
  match (opField w).toNat with
  | 0x0 => if (argField w).extractLsb' 2 2 = 0 then .ok (.sel (chField w)) else .error .argumentBits
  | 0x1 => noArg w .conv
  | 0x2 => noArg w .dly
  | 0x3 => noArg w .wait
  | 0x4 => if (argField w).extractLsb' 1 3 = 0 then .ok (.rd10 (destField w)) else .error .argumentBits
  | 0x5 => noArg w .rd8
  | 0x6 =>
    if (argField w).extractLsb' 1 3 = 0 then .ok (if (argField w).getLsbD 0 then .usin8 else .sin8)
    else .error .argumentBits
  | 0x7 => noArg w .pwcalc
  | 0x8 => noArg w .phadv
  | 0x9 => noArg w .pulse
  | 0xA => noArg w .loop
  | _ => .error .unassignedOp

/-- A word is legal when it decodes (R71). -/
def legalWord (w : Byte) : Bool :=
  match decodeWord w with
  | .ok _ => true
  | .error _ => false

/-- Decoding of a whole sequence: every word, or the first illegal word's reason. -/
def decodeAll : List Byte → Except DecodeError (List Instr)
  | [] => .ok []
  | w :: ws =>
    match decodeWord w with
    | .error e => .error e
    | .ok i =>
      match decodeAll ws with
      | .error e => .error e
      | .ok is => .ok (i :: is)

/-- One match and mask pair of R68, as the opcode table has it. -/
structure OpRow where
  mnemonic : String
  word : Byte
  mask : Byte
  deriving DecidableEq, Repr

/-- A word matches a row when it agrees with the row's word on the bits of the mask (R68). -/
def OpRow.accepts (r : OpRow) (w : Byte) : Bool := w &&& r.mask == r.word

/-- The twelve pairs of R68, in the order of the table of R67. -/
def opRows : List OpRow :=
  [⟨"SEL", 0x00, 0xFC⟩, ⟨"CONV", 0x10, 0xFF⟩, ⟨"DLY", 0x20, 0xFF⟩, ⟨"WAIT", 0x30, 0xFF⟩, ⟨"RD10", 0x40, 0xFE⟩,
    ⟨"RD8", 0x50, 0xFF⟩] ++
  [⟨"SIN8", 0x60, 0xFF⟩, ⟨"USIN8", 0x61, 0xFF⟩, ⟨"PWCALC", 0x70, 0xFF⟩, ⟨"PHADV", 0x80, 0xFF⟩, ⟨"PULSE", 0x90, 0xFF⟩,
    ⟨"LOOP", 0xA0, 0xFF⟩]

/-- The mnemonic of a micro-operation, as the opcode table spells it (R67). -/
def Instr.mnemonic : Instr → String
  | .sel _ => "SEL"
  | .conv => "CONV"
  | .dly => "DLY"
  | .wait => "WAIT"
  | .rd10 _ => "RD10"
  | .rd8 => "RD8"
  | .sin8 => "SIN8"
  | .usin8 => "USIN8"
  | .pwcalc => "PWCALC"
  | .phadv => "PHADV"
  | .pulse => "PULSE"
  | .loop => "LOOP"

/-- A word from its two fields, {op, arg} (R66). -/
def word (op arg : BitVec 4) : Byte := op ++ arg

/-- The operand bit of RD10 (R69). -/
def Dest10.bit : Dest10 → BitVec 1
  | .offset => 0
  | .speed => 1

/-- The word of a micro-operation (R67). -/
def encode : Instr → Byte
  | .sel ch => word 0x0 (0#2 ++ ch)
  | .conv => word 0x1 0
  | .dly => word 0x2 0
  | .wait => word 0x3 0
  | .rd10 d => word 0x4 (0#3 ++ d.bit)
  | .rd8 => word 0x5 0
  | .sin8 => word 0x6 0
  | .usin8 => word 0x6 1
  | .pwcalc => word 0x7 0
  | .phadv => word 0x8 0
  | .pulse => word 0x9 0
  | .loop => word 0xA 0

/-- The words of a sequence. -/
def encodeAll (is : List Instr) : List Byte := is.map encode

/-- The hard-wired reference sequence of R146, in the assembler form R73 gives it; only the three channels come from the
parameters. -/
def referenceProgram (p : Params) : List Instr :=
  assemble [.sample10 p.chOffset .offset, .sample10 p.chSpeed .speed, .sample8 p.chAmpl, .op .sin8, .op .pwcalc,
    .op .phadv, .op .pulse, .op .loop]

/-- The 20 words of the reference sequence (R146). -/
def referenceWords (p : Params) : List Byte := encodeAll (referenceProgram p)

/-- The instruction this decoder reads from an instruction of `nbits` bits whose bits are `w`, numbered as the opcode table
numbers them. A micro-operation is one word of 8 bits (R66), so bit 0 of `w` is bit 0 of the word; a number that does not
fit 8 bits is no micro-operation word. -/
def decodeTableWord (nbits w : Nat) : Option Instr :=
  if nbits ≤ 8 ∧ w < 256 then
    match decodeWord (BitVec.ofNat 8 w) with
    | .ok i => some i
    | .error _ => none
  else none

end Sys2Proof
end

