-- ==== Sys2Proof/Machine/State.lean ====
section
/-! DEFINITION. The state of the rocking-stand CORE and of the environment its rules read (10_state.md), the reasons a step
can be refused, and the state after reset (R34).

State is plain data. Four groups of fields:
the CORE's own registers (R20, R28) with the blocking request it has outstanding (R14, R54);
the environment's state (R31);
the record of the collaborator calls, the trace (R49);
what the step takes as an argument: the parameters and the sequence, which no step changes (R33, R52, R150), and the
environment's script, its moves and its answers, followed by free values (R47, R171). -/

namespace Sys2Proof.Machine

/-- The reasons for which the CORE stops with a fault: NONE. The CORE raises no exception and has no failure path ("the
list of exception causes is therefore empty", 60_exceptions.md R160), so the type has no constructor. Safe: a step that
could fault cannot be written. -/
inductive Fault where
  deriving DecidableEq, Repr

/-- The situations to which the spec gives no meaning and which it refuses by name (R14). Every one is safe: the model stops
where nothing is known of the hardware, so no claim about what follows can be proved. -/
inductive Refusal where
  /-- An instruction without a meaning in this model. Raised by no arm of exec. Safe. -/
  | notModelled (mnemonic : String)
  /-- A micro-operation reads a register that nothing has written since reset (R27). Raised by PWCALC, PHADV, PULSE. Safe. -/
  | unwrittenRegister
  /-- SEQ passes the last entry of the sequence (R28). Raised by fetch and by advance. Safe. -/
  | seqPastEnd
  /-- The sequence holds an illegal word (R71). Raised by fetch and by load, before anything of the sequence runs. Safe. -/
  | illegalUop
  /-- A sequence of legal words whose length is not 1..32 or whose last word is not LOOP (R150). Raised by load. Safe. -/
  | sequenceNotAdmitted
  /-- `select_channel` while a conversion is in flight (R46). Raised by SEL. Safe. -/
  | selectWhileBusy
  /-- `begin_conversion` with no channel selected (R46). Raised by CONV. Safe. -/
  | beginWithoutChannel
  /-- `begin_conversion` while a conversion is in flight (R46). Raised by CONV. Safe. -/
  | beginWhileBusy
  /-- `conversion_ready` with no conversion started since reset (R46). Raised by WAIT. Safe. -/
  | readyWithoutConversion
  /-- A sample read while the last-started conversion is not done (R46). Raised by RD10 and RD8. Safe. -/
  | readBeforeReady
  /-- `emit_pulse` on a line that is high (R46). Raised by PULSE. Safe. -/
  | pulseWhileHigh
  deriving DecidableEq, Repr

/-- What a step or an operation answers. -/
abbrev Res (α : Type) := Host.Outcome α Fault Refusal

/-- `ENV.CONV` (R31). -/
inductive Conv where
  /-- no conversion started since reset -/
  | idle
  /-- a conversion in flight -/
  | busy
  /-- the last-started conversion has finished -/
  | done
  deriving DecidableEq, Repr

/-- The state of the collaborators that the rules read, `ENV` (R31). -/
structure Env where
  /-- `ENV.CH`: the channel last selected, `none` until the first (R31) -/
  ch : Option Channel
  /-- `ENV.CONV` (R31) -/
  conv : Conv
  /-- `ENV.LINE[l]`: the level of each output line, true is high (R31, R42) -/
  line : Vector Bool 8
  deriving DecidableEq, Repr

/-- `ENV` after reset (R34): no channel, no conversion, the pulse line low. R34 gives the level of the pulse line only;
that the other lines are low as well is log entry 8. -/
def Env.atReset : Env := { ch := none, conv := .idle, line := Vector.replicate 8 false }

/-- The blocking request the CORE has outstanding (R14, R28, R54). While it is outstanding the micro-operation that made it
is held and SEQ stays (R28). -/
inductive Hold where
  /-- no request outstanding -/
  | none
  /-- DLY has called `sleep_microseconds` and the delay is running -/
  | sleeping
  /-- the delay has elapsed; DLY completes when it is next tried -/
  | slept
  /-- PULSE has called `emit_pulse` and the line is held high -/
  | pulsing
  /-- the line is low again; PULSE completes when it is next tried -/
  | pulsed
  deriving DecidableEq, Repr

/-- The events of the trace, one per collaborator call (R49). -/
inductive Event where
  /-- `Sel(ch)` -/
  | sel (ch : Channel)
  /-- `Begin` -/
  | start
  /-- `Sleep(us)` -/
  | sleep (us : Duration)
  /-- `Ready` -/
  | ready
  /-- `Read10(v)` -/
  | read10 (v : Sample10)
  /-- `Read8(v)` -/
  | read8 (v : Sample8)
  /-- `Pulse(line, us)` -/
  | pulse (l : Line) (us : Duration)
  deriving DecidableEq, Repr

/-- The three kinds of step of the environment (R171): which of the operations in flight it finishes now. -/
structure Finish where
  /-- finish the conversion (`ENV.CONV`: Busy -> Done) -/
  conv : Bool
  /-- finish the delay (`dly_done`, R53) -/
  delay : Bool
  /-- finish the pulse (`pul_done`, R53) -/
  pulse : Bool
  deriving DecidableEq, Repr

/-- What the outside does before the CORE's next step: it finishes operations in flight (R171), or it holds the reset input
(R180) and leaves the collaborators in a state that only it knows (R182). -/
inductive EnvMove where
  | run (f : Finish)
  | reset (env : Env)
  deriving DecidableEq, Repr

/-- The six data registers by their numbers x[0] to x[5] (R11, R20). -/
inductive Reg where
  | phase | offset | speed | ampl | sine | pw
  deriving DecidableEq, Repr

/-- The state (10_state.md). A register of type `Option` holds no value when it is `none`: that is R27's own state of a
register nothing has written since reset (log entry 1). -/
structure State where
  /-- `PHASE`, x[0] (R21) -/
  phase : Phase
  /-- `OFFSET`, x[1] (R22) -/
  offset : Option Sample10
  /-- `SPEED`, x[2] (R23) -/
  speed : Option Sample10
  /-- `AMPL`, x[3] (R24) -/
  ampl : Option Sample8
  /-- `SINE`, x[4] (R25) -/
  sine : Option Sine
  /-- `PW`, x[5] (R26) -/
  pw : Option Duration
  /-- `SEQ`, the step register and program counter (R28) -/
  seq : StepNo
  /-- the blocking request outstanding (R14, R54; log entry 5) -/
  hold : Hold
  /-- `ENV` (R31) -/
  env : Env
  /-- the trace, oldest event first (R49) -/
  trace : List Event
  /-- the build-time parameters (R6, R7, R8); an argument of the step (R33; log entry 2) -/
  params : Params
  /-- the micro-operation words `UOP[0..]`; an argument of the step (R33, R150; log entry 2) -/
  uop : List Byte
  /-- the environment's next moves, one per step; when the list is used up its moves are free (R171; log entry 4) -/
  moves : List EnvMove
  /-- the converter's next full-precision answers; when the list is used up its answers are free (R47; log entry 4) -/
  answers10 : List Sample10
  /-- the converter's next low-precision answers; when the list is used up its answers are free (R47; log entry 4) -/
  answers8 : List Sample8
  /-- how many samples have been read: the argument of the free samples (R47; log entry 4) -/
  reads : Nat
  /-- how many steps have been taken: the argument of the free moves (R171; log entry 4) and of the free
  level of a pulse of width 0 (R142; log entry 25) -/
  ticks : Nat
  deriving DecidableEq, Repr

/-- The state after reset (R34, R181), with the parameters of the built machine and the hard-wired sequence (R146), and
nothing scripted of what the environment will do. -/
def State.reset : State where
  phase := 0
  offset := none
  speed := none
  ampl := none
  sine := none
  pw := none
  seq := 0
  hold := .none
  env := Env.atReset
  trace := []
  params := Params.build
  uop := referenceWords Params.build
  moves := []
  answers10 := []
  answers8 := []
  reads := 0
  ticks := 0

end Sys2Proof.Machine
end

