-- ==== Sys2Proof/Machine/Flags.lean ====
section
/-! DEFINITION. Flag computations. The CORE has no architectural flags, condition codes or predicates (10_state.md R29), so no
field of State is one. The one flag-like bit the spec names is the carry C of the bit-only square, scratch inside one
evaluation (R29, R32); its computation stands here. -/

namespace Sys2Proof.Machine

/-- `{C, A} = A + M` of R84: the 9-bit sum of two 8-bit values, its bit 8 the carry, its low 8 bits the sum. -/
def addWithCarryOut (a m : BitVec 8) : Bool × BitVec 8 :=
  let sum : BitVec 9 := a.setWidth 9 + m.setWidth 9
  (sum.getLsbD 8, sum.setWidth 8)

end Sys2Proof.Machine
end

