-- ==== Sys2Proof/Machine/Operands.lean ====
section
/-! DEFINITION. The arithmetic primitives of 00_scope.md R10, the forms in which micro-operations read and write their
operands (30_encoding.md R69, 10_state.md R20), and the table of which micro-operation writes which register (R20). -/

namespace Sys2Proof.Machine

/-! ### Primitives (R10) -/

/-- `sext_N(p)`: the signed reading of a pattern (R9, R10). -/
def sext (p : BitVec n) : Int := p.toInt

/-- `zext_N(p)`: the pattern as a non-negative integer (R10). -/
def zext (p : BitVec n) : Int := (p.toNat : Int)

/-- `trunc_N(i)`: the pattern i mod 2^N, for negative i as well (R10). -/
def trunc (n : Nat) (i : Int) : BitVec n := BitVec.ofInt n i

/-- `a << k` on integers: a · 2^k, no bits lost (R10). -/
def shiftLeft (a : Int) (k : Nat) : Int := a * 2 ^ k

/-- `a >> k` on integers: floor(a / 2^k), toward minus infinity (R10). -/
def shiftRight (a : Int) (k : Nat) : Int := a / 2 ^ k

/-! ### Operands -/

/-- Angle extraction: PHASE[15:8], by truncation (R130). -/
def angleOf (p : Phase) : Angle := p.extractLsb' 8 8

/-- Reading a register that may hold no value: with a value the operation goes on, without one it is refused. Both the state
of a register without a value and the refusal are R27's own words, `refuse(UnwrittenRegister)`, "The model must not substitute
zero"; R120, R131 and R140 repeat the refusal for PWCALC, PHADV and PULSE. -/
def withValue (r : Option α) (k : α → Res β) : Res β :=
  match r with
  | some v => k v
  | none => .refused .unwrittenRegister

/-- Writing the destination of RD10: d = 0 OFFSET, d = 1 SPEED (R69, R104). -/
def writeDest (d : Dest10) (v : Sample10) (s : State) : State :=
  match d with
  | .offset => { s with offset := some v }
  | .speed => { s with speed := some v }

/-- Register number i, x[i] (R11). -/
def regOfNumber : Fin 6 → Reg
  | 0 => .phase
  | 1 => .offset
  | 2 => .speed
  | 3 => .ampl
  | 4 => .sine
  | 5 => .pw

/-- A register read by name, as the natural number its pattern is; `none` where it holds no value (R11, R27). -/
def State.reg (s : State) : Reg → Option Nat
  | .phase => some s.phase.toNat
  | .offset => s.offset.map BitVec.toNat
  | .speed => s.speed.map BitVec.toNat
  | .ampl => s.ampl.map BitVec.toNat
  | .sine => s.sine.map BitVec.toNat
  | .pw => s.pw.map BitVec.toNat

/-- The data register a micro-operation writes: the column "written by" of R20, read by rows. -/
def writtenReg : Instr → Option Reg
  | .sel _ | .conv | .dly | .wait | .pulse | .loop => none
  | .rd10 .offset => some .offset
  | .rd10 .speed => some .speed
  | .rd8 => some .ampl
  | .sin8 | .usin8 => some .sine
  | .pwcalc => some .pw
  | .phadv => some .phase

end Sys2Proof.Machine
end

