-- ==== Sys2Proof/Machine/Ops.lean ====
section
/-! DEFINITION. The operations the meanings share: sequencing of outcomes, the step register (10_state.md R28), the trace
(20_memory.md R49), the collaborator calls (00_scope.md R13, 20_memory.md R46), the environment's moves (60_exceptions.md
R171), reset (70_reset_and_hazards.md R180 to R182), fetching (30_encoding.md R68, R71), and admitting a sequence (R150).

TAKING AN EXCEPTION has no operation here: the CORE raises none, saves nothing, has no handler and no return (60_exceptions.md
R160, R165). MEMORY has no operation here: the CORE has none (20_memory.md R40). -/

namespace Sys2Proof.Machine

/-- First one operation, then another on what it answers; a fault or a refusal ends both. -/
def andThen (o : Res α) (k : α → Res β) : Res β :=
  match o with
  | .next a => k a
  | .fault f => .fault f
  | .refused r => .refused r

/-! ### The step register and the trace -/

/-- `SEQ <- SEQ + 1` (R12, R28). SEQ has 5 bits and never wraps: a SEQ that would pass 31 passes the last entry of any
sequence, which R28 refuses (log entry 6). -/
def advance (s : State) : Res State :=
  if s.seq = 31 then .refused .seqPastEnd else .next { s with seq := s.seq + 1 }

/-- `trace += e` (R49). -/
def record (e : Event) (s : State) : State := { s with trace := s.trace ++ [e] }

/-! ### The collaborator calls (R13, R46) -/

/-- `EnvSelect(ch)` (R46). -/
def envSelect (ch : Channel) (s : State) : Res State :=
  match s.env.conv with
  | .busy => .refused .selectWhileBusy
  | .idle | .done => .next (record (.sel ch) { s with env := { s.env with ch := some ch } })

/-- `EnvBegin()` (R46). Where no channel is selected and a conversion is in flight too, both reasons apply; log entry 7. -/
def envBegin (s : State) : Res State :=
  match s.env.ch with
  | none => .refused .beginWithoutChannel
  | some _ =>
    match s.env.conv with
    | .busy => .refused .beginWhileBusy
    | .idle | .done => .next (record .start { s with env := { s.env with conv := .busy } })

/-- `EnvReady()`: whether the last-started conversion has finished (R31, R46). -/
def envReady (s : State) : Res Bool :=
  match s.env.conv with
  | .idle => .refused .readyWithoutConversion
  | .busy => .next false
  | .done => .next true

/-- The answer the converter gives to the next full-precision read: the script's, or a free value (R47). -/
def State.answer10 (s : State) : Sample10 :=
  match s.answers10 with
  | v :: _ => v
  | [] => Config.freeSample10 s.reads

/-- The answer the converter gives to the next low-precision read: the script's, or a free value (R47). -/
def State.answer8 (s : State) : Sample8 :=
  match s.answers8 with
  | v :: _ => v
  | [] => Config.freeSample8 s.reads

/-- `EnvRead10()`: the sample and the state after the call; each call is a fresh draw (R46, R47). ENV is left as it is. -/
def envRead10 (s : State) : Res (Sample10 × State) :=
  match s.env.conv with
  | .done =>
    .next (s.answer10, record (.read10 s.answer10) { s with answers10 := s.answers10.tail, reads := s.reads + 1 })
  | .idle | .busy => .refused .readBeforeReady

/-- `EnvRead8()`: the sample and the state after the call; each call is a fresh draw (R46, R47). ENV is left as it is. -/
def envRead8 (s : State) : Res (Sample8 × State) :=
  match s.env.conv with
  | .done =>
    .next (s.answer8, record (.read8 s.answer8) { s with answers8 := s.answers8.tail, reads := s.reads + 1 })
  | .idle | .busy => .refused .readBeforeReady

/-- `EnvSleep(us)`: the call; the delay then runs until the environment finishes it (R46, R102). -/
def envSleep (us : Duration) (s : State) : State := record (.sleep us) { s with hold := .sleeping }

/-- The level of an output line (R31). -/
def Env.level (e : Env) (l : Line) : Bool := e.line[l.toNat]'l.isLt

/-- Drives an output line to a level (R31). -/
def Env.drive (l : Line) (v : Bool) (e : Env) : Env := { e with line := e.line.set l.toNat v l.isLt }

/-- Whether the line rises in a pulse of width `us` called at step `n`: at any width above 0 it does (R46); at width 0 it
is a free value, since R142 leaves a zero-length or a minimal pulse to the collaborator (log entry 25). -/
def pulseRises (us : Duration) (n : Nat) : Bool := us != 0 || Config.freeZeroWidthRises n

/-- `EnvPulse(line, us)`: the call; the line goes high (at width 0 as the free value has it) and the pulse then runs until the
environment finishes it (R46, R140, R142). -/
def envPulse (l : Line) (us : Duration) (s : State) : Res State :=
  if s.env.level l then .refused .pulseWhileHigh
  else .next (record (.pulse l us) { s with env := s.env.drive l (pulseRises us s.ticks), hold := .pulsing })

/-! ### The environment's moves (R171) and reset (R180) -/

/-- The environment's move when its script is used up: each of its three steps is free (R171). A reset comes only by the
script (log entry 4). -/
def freeFinish (n : Nat) : Finish :=
  { conv := Config.freeConvDone n, delay := Config.freeDelayDone n, pulse := Config.freePulseDone n }

/-- What the environment does before the CORE's next step. -/
def State.nextMove (s : State) : EnvMove :=
  match s.moves with
  | m :: _ => m
  | [] => .run (freeFinish s.ticks)

/-- The move is used and the step is counted. -/
def State.takeMove (s : State) : State := { s with moves := s.moves.tail, ticks := s.ticks + 1 }

/-- Finishing the conversion: Busy -> Done, and nothing else (R31). -/
def Conv.finish (f : Bool) : Conv → Conv
  | .busy => if f then .done else .busy
  | .idle => .idle
  | .done => .done

/-- A completion strobe reaches the request that waits for it and no other (R163). -/
def Hold.finish (f : Finish) : Hold → Hold
  | .sleeping => if f.delay then .slept else .sleeping
  | .pulsing => if f.pulse then .pulsed else .pulsing
  | .none => .none
  | .slept => .slept
  | .pulsed => .pulsed

/-- When the pulse is finished its line is low again, and a line that never rose stays low (R46, R140, R142). -/
def Env.finishPulse (l : Line) (f : Bool) (e : Env) : Env :=
  { e with line := if e.level l && f then (e.drive l false).line else e.line }

/-- The environment finishes operations in flight (R171). No CORE register is touched. -/
def envFinish (f : Finish) (s : State) : State :=
  { s with
    env := { s.env.finishPulse s.params.pulseLine f.pulse with conv := s.env.conv.finish f.conv }
    hold := s.hold.finish f }

/-- Reset while the machine runs (R180 to R182): the registers, SEQ, the outstanding request and the trace go to their
reset values (R34); the collaborators are in the state `env`, about which the CORE knows nothing (R182). Parameters,
sequence and what the environment will answer are not the CORE's and stay. -/
def resetCore (env : Env) (s : State) : State :=
  { s with
    phase := 0, offset := none, speed := none, ampl := none, sine := none, pw := none
    seq := 0, hold := .none, env := env, trace := [] }

/-! ### The sequence: fetching and admitting -/

/-- The micro-operation at SEQ. A sequence that holds an illegal word is refused whole, before any of it runs (R71), and so
is a SEQ past the last entry (R28). -/
def fetch (s : State) : Res Instr :=
  if s.uop.all legalWord then
    match s.uop[s.seq.toNat]? with
    | none => .refused .seqPastEnd
    | some w =>
      match decodeWord w with
      | .ok i => .next i
      | .error _ => .refused .illegalUop
  else .refused .illegalUop

/-- Admitting a sequence (R150): it becomes the machine's sequence when every word is legal, its length is 1..32 and its
last word is LOOP; otherwise it is refused. -/
def load (ws : List Byte) (s : State) : Res State :=
  match decodeAll ws with
  | .error _ => .refused .illegalUop
  | .ok is => if sequenceWellFormed is then .next { s with uop := ws } else .refused .sequenceNotAdmitted

/-- Whether a move is the reset input. -/
def EnvMove.isReset : EnvMove → Bool
  | .reset _ => true
  | .run _ => false

/-- The sequence of 32 entries (R7, R150) whose entry at step `n` is `w` and whose other entries are LOOP. -/
def placeWord (n : Nat) (w : Byte) : List Byte :=
  List.replicate n (encode .loop) ++ w :: List.replicate (Config.seqMax - 1 - n) (encode .loop)

end Sys2Proof.Machine
end

