-- ==== Sys2Proof/Machine/PhaseAcc.lean ====
section
/-! DEFINITION. The phase accumulator, PHADV (43_phase.md R131, R132). -/

namespace Sys2Proof.Machine

/-- The phase increment: the speed sample shifted left by SPEED_SHIFT (R131). -/
def phaseIncrement (p : Params) (v : Sample10) : Int := shiftLeft (zext v) p.speedShift

/-- One advance of the phase, modulo 2^16; the carry out is discarded (R131, R132). -/
def phaseAdvance (p : Params) (ph : Phase) (v : Sample10) : Phase := trunc 16 (zext ph + phaseIncrement p v)

/-- `PHADV` (R131). SPEED without a value is refused (R27). -/
def execPhadv (s : State) : Res State :=
  withValue s.speed fun v => advance { s with phase := phaseAdvance s.params s.phase v }

end Sys2Proof.Machine
end

