-- ==== Sys2Proof/Machine/PulseWidth.lean ====
section
/-! DEFINITION. The pulse-width computation, PWCALC (42_pulse_width.md R120 to R123). -/

namespace Sys2Proof.Machine

/-- The offset term o = (OFFSET - OFFSET_MID) << OFFSET_SHIFT, on integers (R121). -/
def offsetTerm (p : Params) (o : Sample10) : Int := shiftLeft (zext o - p.offsetMid) p.offsetShift

/-- The sine term m = (SINE · AMPL) >> AMP_SHIFT, signed sine times unsigned amplitude, floor (R122). -/
def scaledSine (p : Params) (v : Sine) (a : Sample8) : Int := shiftRight (sext v * zext a) p.ampShift

/-- The sum before truncation (R123). -/
def pulseSum (p : Params) (o : Sample10) (v : Sine) (a : Sample8) : Int :=
  zext p.pwCenter + offsetTerm p o + scaledSine p v a

/-- The pulse width: the sum truncated once to 16 bits; it wraps silently and is not clamped (R123). -/
def pulseWidth (p : Params) (o : Sample10) (v : Sine) (a : Sample8) : Duration := trunc 16 (pulseSum p o v a)

/-- `PWCALC` (R120). OFFSET, AMPL or SINE without a value is refused (R27). -/
def execPwcalc (s : State) : Res State :=
  withValue s.offset fun o => withValue s.ampl fun a => withValue s.sine fun v =>
    advance { s with pw := some (pulseWidth s.params o v a) }

end Sys2Proof.Machine
end

