-- ==== Sys2Proof/Machine/Sampling.lean ====
section
/-! DEFINITION. Sample acquisition: SEL, CONV, DLY, WAIT, RD10, RD8 (41_sampling.md R100 to R105). -/

namespace Sys2Proof.Machine

/-- `SEL ch` (R100): selects the channel sampled next. -/
def execSel (ch : Channel) (s : State) : Res State := andThen (envSelect ch s) advance

/-- `CONV` (R101): starts a conversion and does not wait for it. -/
def execConv (s : State) : Res State := andThen (envBegin s) advance

/-- `DLY` (R102): calls the delay with T_SAMPLE_US, is held until it has elapsed, then goes on. While another blocking
request is outstanding no request is made (R54). -/
def execDly (s : State) : Res State :=
  match s.hold with
  | .none => .next (envSleep s.params.tSampleUs s)
  | .slept => advance { s with hold := .none }
  | .sleeping | .pulsing | .pulsed => .next s

/-- `WAIT` (R103): goes on when the conversion is ready; until then it is held, without timeout (R108, R162). -/
def execWait (s : State) : Res State :=
  andThen (envReady s) fun isReady => if isReady then advance (record .ready s) else .next s

/-- `RD10 d` (R104): the full-precision sample, as it is, into OFFSET or SPEED. -/
def execRd10 (d : Dest10) (s : State) : Res State :=
  andThen (envRead10 s) fun r => advance (writeDest d r.1 r.2)

/-- `RD8` (R105): the low-precision sample, as it is, into AMPL. -/
def execRd8 (s : State) : Res State :=
  andThen (envRead8 s) fun r => advance { r.2 with ampl := some r.1 }

end Sys2Proof.Machine
end

