-- ==== Sys2Proof/Machine/Sequencer.lean ====
section
/-! DEFINITION. Pulse emission and the endless loop, PULSE and LOOP (44_emit_sequencer.md R140, R143). -/

namespace Sys2Proof.Machine

/-- `PULSE` (R140): calls the pulse primitive with whatever PW holds (R142), is held until the pulse is over, then goes
on. PW without a value is refused (R27). While another blocking request is outstanding no request is made (R54). -/
def execPulse (s : State) : Res State :=
  match s.hold with
  | .none => withValue s.pw fun w => envPulse s.params.pulseLine w s
  | .pulsed => advance { s with hold := .none }
  | .pulsing | .sleeping | .slept => .next s

/-- `LOOP` (R143): back to step 0, nothing else. -/
def execLoop (s : State) : Res State := .next { s with seq := 0 }

end Sys2Proof.Machine
end

