-- ==== Sys2Proof/Machine/Sine.lean ====
section
/-! DEFINITION. The Sine Approximator: the square in its two forms, the signed and the unsigned sine (40_sine.md R81 to R90),
and the micro-operations SIN8 and USIN8. -/

namespace Sys2Proof.Machine

/-- SQ8M, the multiply-based square (R81): the pattern x + 128 squared as a SIGNED number (90_conflicts.md C1). -/
def sq8m (x : BitVec 8) : BitVec 8 :=
  let t : BitVec 8 := x + 128
  let p : Int := sext t * sext t
  ~~~ trunc 8 (shiftRight p Config.sqShift)

/-- The scratch state of one evaluation of SQ8B (R32). It is not architectural: every evaluation initialises it and nothing
reads it afterwards, so it is a local value here (R32; log entry 9). -/
structure Scratch where
  /-- `M`, the magnitude -/
  m : BitVec 8
  /-- `A`, accumulator and high byte of the product -/
  a : BitVec 8
  /-- `Q`, multiplier being consumed and low byte of the product -/
  q : BitVec 8
  /-- `C`, carry -/
  c : Bool
  /-- `CNT`, iteration counter -/
  cnt : BitVec 4
  deriving DecidableEq, Repr

/-- The magnitude of the signed reading of x + 128, by compare and negate on 8 bits (R84). -/
def magnitude (x : BitVec 8) : BitVec 8 :=
  let t : BitVec 8 := x + 128
  if t.toNat ≥ 128 then 0 - t else t

/-- The scratch registers at the start of an evaluation (R84). -/
def Scratch.start (x : BitVec 8) : Scratch := { m := magnitude x, a := 0, q := magnitude x, c := false, cnt := 0 }

/-- One pass of the loop (R84): add M when Q[0] is 1, then shift {C, A, Q} right by one. -/
def Scratch.pass (r : Scratch) : Scratch :=
  let sum := if r.q.getLsbD 0 then addWithCarryOut r.a r.m else (false, r.a)
  { m := r.m
    a := BitVec.ofBool sum.1 ++ sum.2.extractLsb' 1 7
    q := sum.2.extractLsb' 0 1 ++ r.q.extractLsb' 1 7
    c := sum.1
    cnt := r.cnt + 1 }

/-- n passes of the loop. -/
def Scratch.passes : Nat → Scratch → Scratch
  | 0, r => r
  | n + 1, r => (Scratch.passes n r).pass

/-- SQ8B, the bit-only square (R84): exactly eight passes, then bits 14:7 of the product {A, Q}, complemented. -/
def sq8b (x : BitVec 8) : BitVec 8 :=
  let r := Scratch.passes Config.sqIter (Scratch.start x)
  ~~~ ((r.a <<< 1) ||| (r.q.extractLsb' 7 1).setWidth 8)

/-- SQ8 in the form that is built in (R7, R82). -/
def sq8 : SqImpl → BitVec 8 → BitVec 8
  | .mul => sq8m
  | .bitOnly => sq8b

/-- `usin8(a)` (R89): the square of the doubled angle, complemented in the second half wave. -/
def usin8 (impl : SqImpl) (a : Angle) : Sine :=
  let u := sq8 impl (a <<< 1)
  if a.getLsbD 7 then ~~~ u else u

/-- `sin8(a)` (R87): the same, re-centred around zero by adding 128 modulo 256. -/
def sin8 (impl : SqImpl) (a : Angle) : Sine :=
  let u := sq8 impl (a <<< 1)
  (if a.getLsbD 7 then ~~~ u else u) + 128

/-- `SIN8` (R87): the signed sine of the current angle into SINE. -/
def execSin8 (s : State) : Res State :=
  advance { s with sine := some (sin8 s.params.sqImpl (angleOf s.phase)) }

/-- `USIN8` (R89): the unsigned sine of the current angle into SINE. -/
def execUsin8 (s : State) : Res State :=
  advance { s with sine := some (usin8 s.params.sqImpl (angleOf s.phase)) }

end Sys2Proof.Machine
end

