-- ==== Sys2Proof/Machine/Dispatch.lean ====
section
/-! DEFINITION. The dispatch: one arm per micro-operation (30_encoding.md R67). -/

namespace Sys2Proof.Machine

def exec (i : Instr) (s : State) : Host.Outcome State Fault Refusal :=
  match i with
  | .sel ch => Sys2Proof.Machine.execSel ch s
  | .conv => Sys2Proof.Machine.execConv s
  | .dly => Sys2Proof.Machine.execDly s
  | .wait => Sys2Proof.Machine.execWait s
  | .rd10 d => Sys2Proof.Machine.execRd10 d s
  | .rd8 => Sys2Proof.Machine.execRd8 s
  | .sin8 => Sys2Proof.Machine.execSin8 s
  | .usin8 => Sys2Proof.Machine.execUsin8 s
  | .pwcalc => Sys2Proof.Machine.execPwcalc s
  | .phadv => Sys2Proof.Machine.execPhadv s
  | .pulse => Sys2Proof.Machine.execPulse s
  | .loop => Sys2Proof.Machine.execLoop s

end Sys2Proof.Machine
end

