-- ==== Sys2Proof/Machine/Step.lean ====
section
/-! DEFINITION. One step of the machine (00_scope.md R14, 70_reset_and_hazards.md R180), and the placing of a word where the
next step fetches it. -/

namespace Sys2Proof.Machine

/-- One step. The environment moves first (60_exceptions.md R171): it holds reset, which has priority over everything (R164,
R180), or it finishes operations in flight. Then the CORE fetches the micro-operation at SEQ and runs it. A held
micro-operation answers a next state with the same SEQ (R28). -/
def step (s : State) : Host.Outcome State Fault Refusal :=
  match s.nextMove with
  | .reset env => .next (resetCore env s.takeMove)
  | .run f => andThen (fetch (envFinish f s.takeMove)) fun i => exec i (envFinish f s.takeMove)

/-- The state in which the next step fetches the word `w` (of `nbits` bits). A sequence is given to the machine whole and
from outside (R150; log entry 12), so the sequence given here has `w` at step SEQ and LOOP everywhere else; scripted resets
that would come before the fetch are dropped. -/
def State.withFetchWord (s : State) (_nbits w : Nat) : State :=
  { s with
    uop := placeWord s.seq.toNat (BitVec.ofNat 8 w)
    moves := s.moves.dropWhile EnvMove.isReset }

end Sys2Proof.Machine
end

