-- ==== Sys2Proof/Machine/Ports.lean ====
section
/-! DEFINITION. The signal-level binding of the collaborator calls (20_memory.md R53, R54): the CORE's output ports in the
clock of each call, its input ports as the environment's moves, and the ports of the Sine Approximator. No rule and no
other definition of the model depends on it (R53: "the model works at the level of the calls"). -/

namespace Sys2Proof.Machine

/-- The output ports of R53 in one clock. `adc_ch`, `dly_us` and `pul_us` are meaningful while their strobe is true;
`pul_line` is constant. -/
structure PortsOut where
  adcSel : Bool
  adcCh : Channel
  adcStart : Bool
  dlyReq : Bool
  dlyUs : Duration
  pulReq : Bool
  pulLine : Line
  pulUs : Duration
  deriving DecidableEq, Repr

/-- All outputs 0: the outputs while rst is 1 (R54, R180). -/
def PortsOut.quiet : PortsOut :=
  { adcSel := false, adcCh := 0, adcStart := false, dlyReq := false, dlyUs := 0, pulReq := false, pulLine := 0, pulUs := 0 }

/-- The outputs in a clock without a request, rst being 0: no strobe, and `pul_line` at its constant PULSE_LINE (R53). -/
def PortsOut.idle (p : Params) : PortsOut := { PortsOut.quiet with pulLine := p.pulseLine }

/-- The output ports in the clock of a collaborator call (R53). Ready and the reads raise no strobe: they are levels and
buses the CORE samples. -/
def PortsOut.ofEvent (p : Params) : Event → PortsOut
  | .sel ch => { PortsOut.idle p with adcSel := true, adcCh := ch }
  | .start => { PortsOut.idle p with adcStart := true }
  | .sleep us => { PortsOut.idle p with dlyReq := true, dlyUs := us }
  | .pulse _ us => { PortsOut.idle p with pulReq := true, pulUs := us }
  | .ready | .read10 _ | .read8 _ => PortsOut.idle p

/-- How many request strobes are raised. -/
def PortsOut.strobes (p : PortsOut) : Nat := p.adcSel.toNat + p.adcStart.toNat + p.dlyReq.toNat + p.pulReq.toNat

/-- The collaborator calls a step made: ALL events it added to the trace. -/
def callsOfStep (before after : State) : List Event := after.trace.drop before.trace.length

/-- How many request strobes a step raised, over all its calls. -/
def strobesOfStep (before after : State) : Nat :=
  ((callsOfStep before after).map fun e => (PortsOut.ofEvent before.params e).strobes).sum

/-- The output ports of a step (log entry 15): all 0 while reset is held, else those of the call it made. -/
def portsOfStep (before after : State) : PortsOut :=
  match before.nextMove with
  | .reset _ => PortsOut.quiet
  | .run _ =>
    match callsOfStep before after with
    | e :: _ => PortsOut.ofEvent before.params e
    | [] => PortsOut.idle before.params

/-- The input ports of R53 in one clock. -/
structure PortsIn where
  rst : Bool
  adcReady : Bool
  adcD10 : Sample10
  adcD8 : Sample8
  dlyDone : Bool
  pulDone : Bool
  deriving DecidableEq, Repr

/-- `adc_ready` is 1 exactly while ENV.CONV is Done (R53). -/
def adcReadyLevel (e : Env) : Bool := e.conv == .done

/-- The environment's move that an input clock is, given the collaborators' state at the release of reset (R53, R182). -/
def PortsIn.move (p : PortsIn) (atRelease : Env) : EnvMove :=
  if p.rst then .reset atRelease else .run { conv := p.adcReady, delay := p.dlyDone, pulse := p.pulDone }

/-- The state in which the next step sees this input clock: its move, and the two data buses as the next answers. -/
def State.withPorts (s : State) (p : PortsIn) (atRelease : Env) : State :=
  { s with moves := [p.move atRelease], answers10 := [p.adcD10], answers8 := [p.adcD8] }

/-- The Sine Approximator's internal interface: `sin_out` from `sin_angle` and `sin_unsigned` (R53). -/
def sineBlock (impl : SqImpl) (sinAngle : Angle) (sinUnsigned : Bool) : Sine :=
  if sinUnsigned then usin8 impl sinAngle else sin8 impl sinAngle

end Sys2Proof.Machine
end

