-- ==== Sys2Proof/Safety.lean ====
section
/-! DEFINITION. What claims are stated in terms of: runs, iteration boundaries (44_emit_sequencer.md R145), the premises on the
environment (70_reset_and_hazards.md R182, R189), the invariants of the machine and of the reference sequence (R147), and a
safe pulse (42_pulse_width.md R125). -/

namespace Sys2Proof.Machine

/-! ### Runs -/

/-- n steps, stopping at the first refusal. -/
def steps : Nat → State → Res State
  | 0, s => .next s
  | n + 1, s => andThen (step s) (steps n)

/-- The run of n steps from `s` ends in `t`, at step 0 of the sequence for the first time since it left `s` (R145). -/
def FirstReturn (n : Nat) (s t : State) : Prop :=
  0 < n ∧ steps n s = .next t ∧ t.seq = 0 ∧ ∀ m u, 0 < m → m < n → steps m s = .next u → u.seq ≠ 0

/-! ### Premises on the environment -/

/-- The collaborators are ready for an iteration: no conversion in flight and the pulse line low (R35, R46). -/
def Env.ready (p : Params) (e : Env) : Prop := e.conv ≠ .busy ∧ e.level p.pulseLine = false

/-- The environment holds no reset. -/
def NoReset (ms : List EnvMove) : Prop := ∀ m ∈ ms, m.isReset = false

/-- Whenever the environment releases reset, the collaborators are ready: the premise R182 asks a claim to state. -/
def ResetsReleaseReady (p : Params) (ms : List EnvMove) : Prop := ∀ e, EnvMove.reset e ∈ ms → e.ready p

/-- The move by which the environment finishes whatever is in flight, the three kinds of operation at once (R171). -/
def finishAll : EnvMove := .run { conv := true, delay := true, pulse := true }

/-- A move that leaves a conversion in flight as it is (R162). -/
def EnvMove.leavesConversion : EnvMove → Bool
  | .run f => !f.conv
  | .reset _ => false

/-- Which operations a move finishes; a reset finishes none. -/
def EnvMove.finish : EnvMove → Finish
  | .run f => f
  | .reset _ => { conv := false, delay := false, pulse := false }

/-- The machine with the first n moves of an environment that moves for ever as its script. -/
def State.under (s : State) (e : Nat → EnvMove) (n : Nat) : State := { s with moves := (List.range n).map e }

/-- The environment never holds reset. -/
def NeverResets (e : Nat → EnvMove) : Prop := ∀ n, (e n).isReset = false

/-- F1 of R189: every conversion begun eventually completes. Whenever the run under `e` has one in flight, a later move
finishes the conversion. -/
def ConversionsComplete (e : Nat → EnvMove) (s : State) : Prop :=
  ∀ n u, steps n (s.under e n) = .next u → u.env.conv = .busy → ∃ m, n ≤ m ∧ (e m).finish.conv = true

/-- F2 of R189: every `sleep_microseconds` eventually returns. -/
def SleepsReturn (e : Nat → EnvMove) (s : State) : Prop :=
  ∀ n u, steps n (s.under e n) = .next u → u.hold = .sleeping → ∃ m, n ≤ m ∧ (e m).finish.delay = true

/-- F3 of R189: every `emit_pulse` eventually returns with the line low. -/
def PulsesReturn (e : Nat → EnvMove) (s : State) : Prop :=
  ∀ n u, steps n (s.under e n) = .next u → u.hold = .pulsing → ∃ m, n ≤ m ∧ (e m).finish.pulse = true

/-! ### Iterations of the reference sequence -/

/-- The machine runs the reference sequence of its parameters (R146). -/
def State.RunsReference (s : State) : Prop := s.uop = referenceWords s.params

/-- An iteration boundary from which an iteration runs (R145, R35): step 0, no request outstanding, the collaborators ready,
no reset ahead. -/
structure State.AtBoundary (s : State) : Prop where
  runsReference : s.RunsReference
  atStepZero : s.seq = 0
  notHeld : s.hold = .none
  envReady : s.env.ready s.params
  noReset : NoReset s.moves

/-- The 16 events of one iteration (R148). -/
def iterationEvents (p : Params) (off spd : Sample10) (amp : Sample8) (w : Duration) : List Event :=
  [.sel p.chOffset, .start, .sleep p.tSampleUs, .ready, .read10 off] ++
  [.sel p.chSpeed, .start, .sleep p.tSampleUs, .ready, .read10 spd] ++
  [.sel p.chAmpl, .start, .sleep p.tSampleUs, .ready, .read8 amp, .pulse p.pulseLine w]

/-- The three samples the environment returns in one iteration (R148). -/
structure Samples where
  offset : Sample10
  speed : Sample10
  ampl : Sample8
  deriving DecidableEq, Repr

/-- One iteration as a single function, R148 as it is written, with the reference gains as numbers: the phase after it and
the events it adds. -/
def iteration (p : Params) (ph : Phase) (x : Samples) : Phase × List Event :=
  let s := sin8 p.sqImpl (angleOf ph)
  let w := trunc 16 (zext p.pwCenter + shiftLeft (zext x.offset - 512) 1 + shiftRight (sext s * zext x.ampl) 6)
  (trunc 16 (zext ph + shiftLeft (zext x.speed) 2), iterationEvents p x.offset x.speed x.ampl w)

/-- Iterations one after the other: the last phase, and all events. -/
def iterations (p : Params) (ph : Phase) : List Samples → Phase × List Event
  | [] => (ph, [])
  | x :: xs =>
    let first := iteration p ph x
    let rest := iterations p first.1 xs
    (rest.1, first.2 ++ rest.2)

/-- The machine goes from boundary to boundary, and the registers hold these samples at the end of each iteration (R145,
R148). -/
def IteratesWith : List Samples → State → State → Prop
  | [], s, t => t = s
  | x :: xs, s, t => ∃ n u, FirstReturn n s u ∧
      u.offset = some x.offset ∧ u.speed = some x.speed ∧ u.ampl = some x.ampl ∧ IteratesWith xs u t

/-! ### Invariants -/

/-- What a blocking request outstanding says about the micro-operation at SEQ: a delay was requested by a DLY, a pulse by a
PULSE, and SEQ has not moved since (R28, R54). -/
def Hold.requestedBy : Hold → Option Instr
  | .none => Option.none
  | .sleeping | .slept => some .dly
  | .pulsing | .pulsed => some .pulse

/-- The low SPEED_SHIFT bits of PHASE are 0 (R36). -/
def State.PhaseAligned (s : State) : Prop := s.phase.toNat % 2 ^ min s.params.speedShift 16 = 0

/-- The invariant of the machine, whatever sequence it runs: a held request belongs to the micro-operation at SEQ (R28, R54),
the pulse line is high only during the hold of a pulse (R141) and all through it (R46) but for a width of 0, where R142 leaves
the level open (log entry 25), and every reset ahead releases ready collaborators (R182's premise, in the form of log entry
13). -/
structure State.Inv (s : State) : Prop where
  holdAtSeq : ∀ i, s.hold.requestedBy = some i → s.uop[s.seq.toNat]? = some (encode i)
  lineHighOnlyInPulse : s.env.level s.params.pulseLine = true → s.hold = .pulsing
  lineHighInPulse : s.hold = .pulsing → s.env.level s.params.pulseLine = true ∨ s.pw = some 0
  resetsReleaseReady : ResetsReleaseReady s.params s.moves

/-- What the converter's state is at step `k` of the reference sequence (R147 (c)): no conversion in flight at SEL, CONV and
from step 15 on, one started at DLY and WAIT, finished at the read. -/
def convAtStep (k : Nat) (c : Conv) : Prop :=
  if k < 15 then
    if k % 5 = 4 then c = .done
    else if k % 5 = 2 ∨ k % 5 = 3 then c ≠ .idle
    else c ≠ .busy
  else c ≠ .busy

/-- Which channel is selected at step `k` of the reference sequence (R106): none required at step 0, then the channel of the
acquisition last begun. -/
def channelAtStep (p : Params) (k : Nat) (ch : Option Channel) : Prop :=
  if k = 0 then True
  else if k ≤ 5 then ch = some p.chOffset
  else if k ≤ 10 then ch = some p.chSpeed
  else ch = some p.chAmpl

/-- The invariant of the reference sequence (R147): SEQ is 0..19; every register is written before the step that reads it;
every collaborator call is admitted when its step comes; and the machine's invariant. -/
structure State.RefInv (s : State) : Prop where
  inv : s.Inv
  runsReference : s.RunsReference
  seqInRange : s.seq.toNat < Config.seqLen
  offsetWritten : 5 ≤ s.seq.toNat → s.offset ≠ none
  speedWritten : 10 ≤ s.seq.toNat → s.speed ≠ none
  amplWritten : 15 ≤ s.seq.toNat → s.ampl ≠ none
  sineWritten : 16 ≤ s.seq.toNat → s.sine ≠ none
  pwWritten : 17 ≤ s.seq.toNat → s.pw ≠ none
  conversion : convAtStep s.seq.toNat s.env.conv
  channel : channelAtStep s.params s.seq.toNat s.env.ch

/-! ### A safe pulse -/

/-- A pulse width inside the servo's safe range (R125). -/
def SafeWidth (p : Params) (w : Duration) : Prop := p.pwSafeMin ≤ w.toNat ∧ w.toNat ≤ p.pwSafeMax

/-- A safe run: every pulse emitted so far had a width in the safe range (R125, R190). -/
def SafeTrace (p : Params) (tr : List Event) : Prop := ∀ l w, Event.pulse l w ∈ tr → SafeWidth p w

end Sys2Proof.Machine
end

