-- ==== Sys2Proof/Certificates/Slice0/Obligations.lean ====
section
/-! DEFINITION. The statements about the model, for the provers. Each docstring names the rule of spec/ it formalises; the
witnesses that meet the hypotheses are the theorems `witness_…` of Tests/Slice0.lean. -/

open Sys2Proof Sys2Proof.Machine

/-! ## Encoding (30_encoding.md) -/

/-- R67: the sixteen words of the spec's table, written out, decode to the micro-operations they stand for. -/
def Obligations.SpecWordsDecode : Prop :=
  decodeWord 0x00 = .ok (.sel 0) ∧ decodeWord 0x01 = .ok (.sel 1) ∧ decodeWord 0x02 = .ok (.sel 2) ∧
  decodeWord 0x03 = .ok (.sel 3) ∧ decodeWord 0x10 = .ok .conv ∧ decodeWord 0x20 = .ok .dly ∧
  decodeWord 0x30 = .ok .wait ∧ decodeWord 0x40 = .ok (.rd10 .offset) ∧ decodeWord 0x41 = .ok (.rd10 .speed) ∧
  decodeWord 0x50 = .ok .rd8 ∧ decodeWord 0x60 = .ok .sin8 ∧ decodeWord 0x61 = .ok .usin8 ∧
  decodeWord 0x70 = .ok .pwcalc ∧ decodeWord 0x80 = .ok .phadv ∧ decodeWord 0x90 = .ok .pulse ∧
  decodeWord 0xA0 = .ok .loop

/-- R68: decoding an encoded sequence gives the sequence back, for every sequence of micro-operations with every operand,
and two different sequences never have the same words. -/
def Obligations.SequenceRoundTrip : Prop :=
  (∀ is : List Instr, decodeAll (encodeAll is) = .ok is) ∧
  ∀ (ws : List Byte) (is : List Instr), decodeAll ws = .ok is → ws = encodeAll is

/-- R68, R71: a word decodes to a micro-operation exactly when one row of the match and mask table accepts it, the row is
that micro-operation's, and no second row accepts it. -/
def Obligations.DecoderAgreesWithMatchMask : Prop :=
  ∀ w : Byte,
    (∀ i, decodeWord w = .ok i → (opRows.filter fun r => r.accepts w).map OpRow.mnemonic = [i.mnemonic]) ∧
    ((∃ e, decodeWord w = .error e) → ∀ r ∈ opRows, r.accepts w = false)

/-- R71: the illegal words are those whose operation code is 0xB..0xF and those with a 1 in a bit R67 requires to be 0,
named by their reason. R71 has one refusal, IllegalUop: the two reasons and which of them a word is given are the model's
choice (log entry 22). -/
def Obligations.IllegalWordsAreNamed : Prop :=
  ∀ w : Byte,
    (decodeWord w = .error .unassignedOp ↔ 0xB0 ≤ w.toNat) ∧
    (decodeWord w = .error .argumentBits ↔
      w.toNat < 0xB0 ∧ w.toNat % 16 ≠ 0 ∧ w.toNat ∉ [0x01, 0x02, 0x03, 0x41, 0x61])

/-! ## Results: each micro-operation completes, with exactly this next state (files 40 to 44) -/

/-- R100: SEL ch, words 0x00..0x03, selects the channel (the one already selected included), appends Sel(ch), advances SEQ
and changes nothing else; while a conversion is in flight it is refused. -/
def Obligations.SelSelectsChannel : Prop :=
  ∀ (ch : Channel) (s : State),
    (encode (.sel ch)).toNat = ch.toNat ∧
    (s.env.conv ≠ .busy → s.seq ≠ 31 →
      exec (.sel ch) s = .next { s with
        env := { s.env with ch := some ch }, trace := s.trace ++ [.sel ch], seq := s.seq + 1 }) ∧
    (s.env.conv = .busy → exec (.sel ch) s = .refused .selectWhileBusy)

/-- R101: CONV, word 0x10, starts a conversion without waiting for it, appends Begin, advances SEQ and changes nothing
else; with no channel selected or a conversion in flight it is refused (R46). Which reason is given when both apply is the
model's choice (log entry 7). -/
def Obligations.ConvStartsConversion : Prop :=
  encode .conv = 0x10 ∧
  ∀ s : State,
    (s.env.ch ≠ none → s.env.conv ≠ .busy → s.seq ≠ 31 →
      exec .conv s = .next { s with
        env := { s.env with conv := .busy }, trace := s.trace ++ [.start], seq := s.seq + 1 }) ∧
    (s.env.ch = none → exec .conv s = .refused .beginWithoutChannel) ∧
    (s.env.ch ≠ none → s.env.conv = .busy → exec .conv s = .refused .beginWhileBusy)

/-- R102: DLY, word 0x20, calls the delay with T_SAMPLE_US and appends Sleep once; it is held, nothing changing, while the
delay runs; the environment lets the delay elapse; then SEQ advances and nothing else changes. That the call and the
advance are two steps, the first leaving SEQ, is the model's choice (log entry 5). A DLY tried while a pulse is
outstanding (log entry 17) is excluded by StepKeepsTheMachineInvariant. -/
def Obligations.DlySleepsThenAdvances : Prop :=
  encode .dly = 0x20 ∧
  ∀ s : State,
    (s.hold = .none →
      exec .dly s = .next { s with hold := .sleeping, trace := s.trace ++ [.sleep s.params.tSampleUs] }) ∧
    (s.hold = .sleeping → exec .dly s = .next s) ∧
    (s.hold = .sleeping → ∀ f : Finish, (envFinish f s).hold = if f.delay then .slept else .sleeping) ∧
    (s.hold = .slept → s.seq ≠ 31 → exec .dly s = .next { s with hold := .none, seq := s.seq + 1 })

/-- R103: WAIT, word 0x30, passes when the conversion is done, appending Ready once and advancing SEQ; while the
conversion is in flight it is held and the whole state stays as it is; with no conversion ever started it is refused. -/
def Obligations.WaitPassesOnlyWhenDone : Prop :=
  encode .wait = 0x30 ∧
  ∀ s : State,
    (s.env.conv = .done → s.seq ≠ 31 →
      exec .wait s = .next { s with trace := s.trace ++ [.ready], seq := s.seq + 1 }) ∧
    (s.env.conv = .busy → exec .wait s = .next s) ∧
    (s.env.conv = .idle → exec .wait s = .refused .readyWithoutConversion)

/-- R104: RD10, words 0x40 and 0x41, writes the sample the converter answers, as it is, into OFFSET or SPEED, whichever
its operand names, appends Read10 of it, advances SEQ and leaves every other register and ENV unchanged; the answer is
consumed, so the next read is a fresh draw (R47). A read when the conversion is not done is refused. -/
def Obligations.Rd10StoresTheAnswer : Prop :=
  encode (.rd10 .offset) = 0x40 ∧ encode (.rd10 .speed) = 0x41 ∧
  ∀ (s : State) (v : Sample10), s.answer10 = v →
    (s.env.conv = .done → s.seq ≠ 31 →
      exec (.rd10 .offset) s = .next { s with
        offset := some v, trace := s.trace ++ [.read10 v], seq := s.seq + 1
        answers10 := s.answers10.tail, reads := s.reads + 1 } ∧
      exec (.rd10 .speed) s = .next { s with
        speed := some v, trace := s.trace ++ [.read10 v], seq := s.seq + 1
        answers10 := s.answers10.tail, reads := s.reads + 1 }) ∧
    (s.env.conv ≠ .done → ∀ d, exec (.rd10 d) s = .refused .readBeforeReady)

/-- R105: RD8, word 0x50, writes the sample the converter answers, as it is, into AMPL, appends Read8 of it, advances
SEQ and leaves every other register and ENV unchanged; a read when the conversion is not done is refused. -/
def Obligations.Rd8StoresTheAnswer : Prop :=
  encode .rd8 = 0x50 ∧
  ∀ (s : State) (v : Sample8), s.answer8 = v →
    (s.env.conv = .done → s.seq ≠ 31 →
      exec .rd8 s = .next { s with
        ampl := some v, trace := s.trace ++ [.read8 v], seq := s.seq + 1
        answers8 := s.answers8.tail, reads := s.reads + 1 }) ∧
    (s.env.conv ≠ .done → exec .rd8 s = .refused .readBeforeReady)

/-- R87, R88: SIN8, word 0x60, writes the signed sine of the angle PHASE[15:8] into SINE, in the closed form of R88 and
in either form of the square, advances SEQ and changes nothing else. -/
def Obligations.Sin8WritesSignedSine : Prop :=
  encode .sin8 = 0x60 ∧
  ∀ s : State, s.seq ≠ 31 →
    exec .sin8 s = .next { s with
      sine := some (BitVec.ofInt 8
        (if s.phase.toNat / 256 < 128 then 127 - ((s.phase.toNat / 256 : Nat) - 64 : Int) ^ 2 / 32
         else -128 + ((s.phase.toNat / 256 : Nat) - 192 : Int) ^ 2 / 32))
      seq := s.seq + 1 }

/-- R89: USIN8, word 0x61, writes the unsigned sine of the angle PHASE[15:8] into SINE, in the closed form of R89 and in
either form of the square, advances SEQ and changes nothing else. -/
def Obligations.Usin8WritesUnsignedSine : Prop :=
  encode .usin8 = 0x61 ∧
  ∀ s : State, s.seq ≠ 31 →
    exec .usin8 s = .next { s with
      sine := some (BitVec.ofInt 8
        (if s.phase.toNat / 256 < 128 then 255 - ((s.phase.toNat / 256 : Nat) - 64 : Int) ^ 2 / 32
         else ((s.phase.toNat / 256 : Nat) - 192 : Int) ^ 2 / 32))
      seq := s.seq + 1 }

/-- R120: PWCALC, word 0x70, writes PW_CENTER plus the offset term plus the sine term, summed as integers, the product
shifted arithmetically, the sum truncated once to 16 bits; it advances SEQ and changes nothing else. With OFFSET, AMPL or
SINE unwritten it is refused. -/
def Obligations.PwcalcWritesPulseWidth : Prop :=
  encode .pwcalc = 0x70 ∧
  (∀ (s : State) (o : Sample10) (v : Sine) (a : Sample8),
    s.offset = some o → s.sine = some v → s.ampl = some a → s.seq ≠ 31 →
    exec .pwcalc s = .next { s with
      pw := some (BitVec.ofInt 16 (s.params.pwCenter.toNat
        + ((o.toNat : Int) - s.params.offsetMid) * 2 ^ s.params.offsetShift
        + (v.toInt * a.toNat) / 2 ^ s.params.ampShift))
      seq := s.seq + 1 }) ∧
  ∀ s : State, s.offset = none ∨ s.ampl = none ∨ s.sine = none → exec .pwcalc s = .refused .unwrittenRegister

/-- R131: PHADV, word 0x80, adds the speed sample shifted left by SPEED_SHIFT to PHASE modulo 65536, advances SEQ and
changes nothing else. With SPEED unwritten it is refused. -/
def Obligations.PhadvAdvancesPhase : Prop :=
  encode .phadv = 0x80 ∧
  (∀ (s : State) (v : Sample10), s.speed = some v → s.seq ≠ 31 →
    exec .phadv s = .next { s with
      phase := BitVec.ofNat 16 ((s.phase.toNat + v.toNat * 2 ^ s.params.speedShift) % 65536)
      seq := s.seq + 1 }) ∧
  ∀ s : State, s.speed = none → exec .phadv s = .refused .unwrittenRegister

/-- R140, R142: PULSE, word 0x90, calls the pulse primitive on PULSE_LINE with whatever PW holds, appending Pulse once and
driving the line high; at width 0, where R142 leaves open whether the line rises, a free value without a body says it, and
every other effect is as at any width (log entry 25). It is held, nothing changing, while the pulse runs; the line is low
when the environment has finished the pulse; then SEQ advances and nothing else changes, PW included. With PW unwritten it is
refused. The model's choices: the call and the advance are two steps, the first leaving SEQ (log entry 5); PW unwritten is
refused under that reason on a high line too (log entry 23). -/
def Obligations.PulseEmitsThenAdvances : Prop :=
  encode .pulse = 0x90 ∧
  ∀ s : State,
    (∀ (w : Duration) (rises : Bool), rises = (if w = 0 then Config.freeZeroWidthRises s.ticks else true) →
      s.hold = .none → s.pw = some w → s.env.level s.params.pulseLine = false →
      exec .pulse s = .next { s with
        env := { s.env with line := s.env.line.set s.params.pulseLine.toNat rises s.params.pulseLine.isLt }
        hold := .pulsing, trace := s.trace ++ [.pulse s.params.pulseLine w] }) ∧
    (s.hold = .pulsing → exec .pulse s = .next s) ∧
    (s.hold = .pulsing → ∀ f : Finish,
      (envFinish f s).hold = (if f.pulse then .pulsed else .pulsing) ∧
      (envFinish f s).env.level s.params.pulseLine = (s.env.level s.params.pulseLine && !f.pulse)) ∧
    (s.hold = .pulsed → s.seq ≠ 31 → exec .pulse s = .next { s with hold := .none, seq := s.seq + 1 }) ∧
    (s.hold = .none → s.pw = none → exec .pulse s = .refused .unwrittenRegister)

/-- R143: LOOP, word 0xA0, sets SEQ to 0, from every state, and changes nothing else. -/
def Obligations.LoopReturnsToStepZero : Prop :=
  encode .loop = 0xA0 ∧
  ∀ s : State, exec .loop s = .next { s with seq := 0 }

/-! ## Refusals (10_state.md R27, R28; 20_memory.md R46; 30_encoding.md R71) -/

/-- R27: PWCALC, PHADV and PULSE are refused when a register they read holds no value, and by this reason only then.
With PW unwritten and the line high R46 refuses PULSE too; that unwrittenRegister is given there is the model's choice (log entry 23). -/
def Obligations.UnwrittenRegisterRefused : Prop :=
  ∀ s : State,
    (exec .pwcalc s = .refused .unwrittenRegister ↔ s.offset = none ∨ s.ampl = none ∨ s.sine = none) ∧
    (exec .phadv s = .refused .unwrittenRegister ↔ s.speed = none) ∧
    (s.hold = .none → (exec .pulse s = .refused .unwrittenRegister ↔ s.pw = none)) ∧
    exec .sin8 s ≠ .refused .unwrittenRegister ∧ exec .usin8 s ≠ .refused .unwrittenRegister

/-- R46: the admission table, row by row. A collaborator call outside the protocol is refused by the reason of its row,
and that reason is given for nothing else. The model's choices where R46 gives no order: CONV with no channel and a
conversion in flight is given the channel (log entry 7); PULSE with PW unwritten on a high line is given the register, so
the last row has PW written as a premise (log entry 23); PULSE makes its call with no request outstanding (log entry 5). -/
def Obligations.AdmissionTableIsExact : Prop :=
  ∀ (i : Instr) (s : State),
    (exec i s = .refused .selectWhileBusy ↔ (∃ ch, i = .sel ch) ∧ s.env.conv = .busy) ∧
    (exec i s = .refused .beginWithoutChannel ↔ i = .conv ∧ s.env.ch = none) ∧
    (exec i s = .refused .beginWhileBusy ↔ i = .conv ∧ s.env.ch ≠ none ∧ s.env.conv = .busy) ∧
    (exec i s = .refused .readyWithoutConversion ↔ i = .wait ∧ s.env.conv = .idle) ∧
    (exec i s = .refused .readBeforeReady ↔ ((∃ d, i = .rd10 d) ∨ i = .rd8) ∧ s.env.conv ≠ .done) ∧
    (exec i s = .refused .pulseWhileHigh ↔
      i = .pulse ∧ s.hold = .none ∧ s.pw ≠ none ∧ s.env.level s.params.pulseLine = true)

/-- R28: a step past the last entry of a sequence of legal words is refused; SEQ never wraps: a completed micro-operation
other than LOOP leaves SEQ one higher, and one that would leave step 31 is refused. R28 gives the refusal of a SEQ past the
last entry; that at step 31 it comes in the very step that would move on is the model's reading (log entry 6, DEDUCED). -/
def Obligations.SeqNeverPassesTheEnd : Prop :=
  (∀ (s : State) (f : Finish), s.nextMove = .run f → (∀ w ∈ s.uop, legalWord w = true) → s.uop.length ≤ s.seq.toNat →
    step s = .refused .seqPastEnd) ∧
  (∀ (i : Instr) (s t : State), exec i s = .next t → i ≠ .loop → t.seq ≠ s.seq → t.seq.toNat = s.seq.toNat + 1) ∧
  ∀ (i : Instr) (s t : State), i ≠ .loop → exec i { s with seq := 0 } = .next t → t.seq ≠ 0 →
    exec i { s with seq := 31 } = .refused .seqPastEnd

/-- R71: the words whose operation code is 0xB..0xF, and those with a 1 in a bit R67 requires to be 0, are illegal and no
others are; a sequence that holds an illegal word is refused before anything of it runs, whatever SEQ is. -/
def Obligations.IllegalSequenceRefused : Prop :=
  (∀ w : Byte, legalWord w = false ↔
    0xB0 ≤ w.toNat ∨ (w.toNat % 16 ≠ 0 ∧ w.toNat ∉ [0x01, 0x02, 0x03, 0x41, 0x61])) ∧
  ∀ (s : State) (f : Finish) (w : Byte), s.nextMove = .run f → w ∈ s.uop → legalWord w = false →
    step s = .refused .illegalUop

/-- R150: a sequence given to the model is admitted exactly when every word is legal, its length is 1 to 32 and its last
word is LOOP; admitting it changes the sequence only. -/
def Obligations.LoadAdmitsExactlyR150 : Prop :=
  ∀ (ws : List Byte) (s : State),
    ((∃ t, load ws s = .next t) ↔
      (∀ w ∈ ws, legalWord w = true) ∧ 1 ≤ ws.length ∧ ws.length ≤ 32 ∧ ws.getLast? = some (encode .loop)) ∧
    (∀ t, load ws s = .next t → t = { s with uop := ws }) ∧
    ((∃ w ∈ ws, legalWord w = false) → load ws s = .refused .illegalUop)

/-! ## The step (00_scope.md R12, R14; 70_reset_and_hazards.md R180) -/

/-- R12, R28, R171: when the environment does not hold reset and the word at SEQ of a legal sequence decodes to i, a
step is exec of i in the state after the environment's move, and that move finishes operations in flight and touches no
register, no event, no parameter and no word of the sequence. That the environment moves once in each step, and before
the CORE, is the model's choice of order (log entry 4). -/
def Obligations.StepRunsTheDecodedWord : Prop :=
  ∀ (s : State) (f : Finish) (w : Byte) (i : Instr),
    s.nextMove = .run f → (∀ x ∈ s.uop, legalWord x = true) → s.uop[s.seq.toNat]? = some w → decodeWord w = .ok i →
    step s = exec i (envFinish f s.takeMove) ∧
    ∃ (e : Env) (h : Hold),
      envFinish f s.takeMove = { s with env := e, hold := h, moves := s.moves.tail, ticks := s.ticks + 1 } ∧
      e.ch = s.env.ch ∧ (e.conv ≠ s.env.conv → s.env.conv = .busy ∧ e.conv = .done ∧ f.conv = true) ∧
      (h ≠ s.hold → (s.hold = .sleeping ∧ h = .slept ∧ f.delay = true) ∨
        (s.hold = .pulsing ∧ h = .pulsed ∧ f.pulse = true)) ∧
      (∀ l, e.level l ≠ s.env.level l → l = s.params.pulseLine ∧ e.level l = false ∧ f.pulse = true)

/-- R146: the reference sequence of every parameters is these 20 words, and it is admitted
(R150). -/
def Obligations.ReferenceSequenceIsR146 : Prop :=
  ∀ p : Params,
    referenceWords p =
      [encode (.sel p.chOffset), 0x10, 0x20, 0x30, 0x40, encode (.sel p.chSpeed), 0x10, 0x20, 0x30, 0x41] ++
      [encode (.sel p.chAmpl), 0x10, 0x20, 0x30, 0x50, 0x60, 0x70, 0x80, 0x90, 0xA0] ∧
    ∀ s : State, load (referenceWords p) s = .next { s with uop := referenceWords p }

/-- R180: while reset is held the CORE executes nothing, whatever it was doing, and its outputs are 0; every register, SEQ,
the outstanding request and the trace have their reset values (R181). The model's choices (log entry 13): ENV is what the
reset move carries, where R182 leaves it to the environment, and the parameters and the sequence stay. -/
def Obligations.ResetOverridesEverything : Prop :=
  ∀ (s : State) (e : Env), s.nextMove = .reset e →
    ∃ t, step s = .next t ∧ portsOfStep s t = PortsOut.quiet ∧
      t.phase = 0 ∧ t.seq = 0 ∧ t.offset = none ∧ t.speed = none ∧ t.ampl = none ∧ t.sine = none ∧
      t.pw = none ∧ t.hold = .none ∧ t.trace = [] ∧ t.env = e ∧ t.params = s.params ∧ t.uop = s.uop

/-- R34: the state after reset. -/
def Obligations.ResetStateIsR34 : Prop :=
  State.reset.phase = 0 ∧ State.reset.seq = 0 ∧
  (∀ r : Reg, r ≠ .phase → State.reset.reg r = none) ∧
  State.reset.env.ch = none ∧ State.reset.env.conv = .idle ∧
  State.reset.env.level State.reset.params.pulseLine = false ∧ State.reset.trace = [] ∧ State.reset.RunsReference

/-- R163: a completion strobe that no operation in flight waits for has no effect. -/
def Obligations.StrayStrobeHasNoEffect : Prop :=
  ∀ (s : State) (f : Finish),
    s.env.conv ≠ .busy → s.hold ≠ .sleeping → s.hold ≠ .pulsing → s.env.level s.params.pulseLine = false →
    envFinish f s = s

/-! ## Frames over the whole machine (10_state.md R20, R30, R33; 20_memory.md R49, R52; 44_emit_sequencer.md R144) -/

/-- R20: a step without reset changes a data register only when the micro-operation it fetched is one that R20 lists as
writing that register; a register that held a value still holds one. -/
def Obligations.OnlyTheListedWriterChangesARegister : Prop :=
  ∀ (s t : State) (f : Finish), s.nextMove = .run f → step s = .next t →
    ∀ r : Reg,
      (t.reg r ≠ s.reg r → ∃ i, fetch s = .next i ∧ writtenReg i = some r) ∧ (s.reg r ≠ none → t.reg r ≠ none)

/-- R30, R52: no step writes the parameters or the sequence. -/
def Obligations.ParametersAndSequenceAreReadOnly : Prop :=
  ∀ s t : State, step s = .next t → t.params = s.params ∧ t.uop = s.uop

/-- R49: a step without reset adds at most one event to the trace, at its end, and the event is the one of the
micro-operation it fetched. The holding steps of DLY and PULSE (log entry 5, the model's form) are among these steps; that
they append nothing is said by DlySleepsThenAdvances, PulseEmitsThenAdvances and AtMostOneStrobePerStep. -/
def Obligations.TraceGrowsByTheFetchedCall : Prop :=
  ∀ (s t : State) (f : Finish), s.nextMove = .run f → step s = .next t →
    t.trace = s.trace ∨
    ∃ i e, fetch s = .next i ∧ t.trace = s.trace ++ [e] ∧
      match i with
      | .sel ch => e = .sel ch
      | .conv => e = .start
      | .dly => e = .sleep s.params.tSampleUs
      | .wait => e = .ready
      | .rd10 .offset => ∃ v, e = .read10 v ∧ t.offset = some v
      | .rd10 .speed => ∃ v, e = .read10 v ∧ t.speed = some v
      | .rd8 => ∃ v, e = .read8 v ∧ t.ampl = some v
      | .pulse => ∃ w, e = .pulse s.params.pulseLine w ∧ s.pw = some w
      | .sin8 | .usin8 | .pwcalc | .phadv | .loop => False

/-- R144: the only control transfers. A step without reset ends at SEQ + 1; or at 0 after LOOP; or at the same SEQ,
held, and then the micro-operation is WAIT, DLY or PULSE. -/
def Obligations.ControlTransfersAreR144 : Prop :=
  ∀ (s t : State) (f : Finish), s.nextMove = .run f → step s = .next t →
    ∃ i, fetch s = .next i ∧
      ((i = .loop ∧ t.seq = 0) ∨
       (i ≠ .loop ∧ t.seq.toNat = s.seq.toNat + 1) ∨
       ((i = .wait ∨ i = .dly ∨ i = .pulse) ∧ t.seq = s.seq))

/-- R54, a step being one clock of the ports (log entry 15): a step raises at most one request strobe, counted over ALL
collaborator calls it made, and none while a DLY or PULSE the CORE issued is outstanding. The premise Inv is the model's in
its form of the hold (log entry 5) and of R182's premise (entry 13); it leaves the line open in a pulse of width 0 (R142, log
entry 25). -/
def Obligations.AtMostOneStrobePerStep : Prop :=
  ∀ s t : State, s.Inv → step s = .next t →
    strobesOfStep s t ≤ 1 ∧ (s.hold ≠ .none → strobesOfStep s t = 0)

/-! ## The Sine Approximator (40_sine.md) -/

/-- R86: the bit-only square and the multiply-based square are equal on all 256 inputs. R85: the loop invariant, after
each of the eight passes, with the carry never set, and the accumulator small enough for the final shift. -/
def Obligations.BitOnlySquareIsTheSquare : Prop :=
  (∀ x : BitVec 8, sq8b x = sq8m x) ∧
  ∀ (x : BitVec 8) (n : Nat), n ≤ 8 →
    let r := Scratch.passes n (Scratch.start x)
    let m := (magnitude x).toNat
    r.a.toNat * 256 + r.q.toNat = m * (m % 2 ^ n) * 2 ^ (8 - n) + m / 2 ^ n ∧
    r.c = false ∧ (r.a.toNat < m ∨ m = 0) ∧ (n = 8 → r.a.toNat ≤ 0x40) ∧ r.m = magnitude x ∧ r.cnt.toNat = n

/-- R82: the square in closed form, 255 - floor(s²/128) for the signed reading s of x xor 0x80; at least 127, and 127
only at x = 0; 255 for |s| <= 11; even in s and non-increasing in |s|. -/
def Obligations.SquareClosedForm : Prop :=
  ∀ (impl : SqImpl) (x : BitVec 8),
    ((sq8 impl x).toNat : Int) = 255 - (x ^^^ 0x80).toInt ^ 2 / 128 ∧
    127 ≤ (sq8 impl x).toNat ∧ ((sq8 impl x).toNat = 127 ↔ x = 0) ∧
    ((x ^^^ 0x80).toInt.natAbs ≤ 11 → (sq8 impl x).toNat = 255) ∧
    ∀ y : BitVec 8, (x ^^^ 0x80).toInt.natAbs ≤ (y ^^^ 0x80).toInt.natAbs → (sq8 impl y).toNat ≤ (sq8 impl x).toNat

/-- R88: the signed sine in closed form, its landmarks, plateaus, half-wave law and symmetries. -/
def Obligations.SignedSineLaws : Prop :=
  ∀ impl : SqImpl,
    (∀ a : Angle, (sin8 impl a).toInt =
      if a.toNat < 128 then 127 - ((a.toNat : Int) - 64) ^ 2 / 32 else -128 + ((a.toNat : Int) - 192) ^ 2 / 32) ∧
    (sin8 impl 0).toInt = -1 ∧ (sin8 impl 64).toInt = 127 ∧ (sin8 impl 128).toInt = 0 ∧ (sin8 impl 192).toInt = -128 ∧
    (∀ a : Angle, (sin8 impl a).toInt = 127 ↔ 59 ≤ a.toNat ∧ a.toNat ≤ 69) ∧
    (∀ a : Angle, (sin8 impl a).toInt = -128 ↔ 187 ≤ a.toNat ∧ a.toNat ≤ 197) ∧
    (∀ a : Angle, sin8 impl (a + 128) = ~~~ sin8 impl a ∧ (sin8 impl (a + 128)).toInt = -1 - (sin8 impl a).toInt) ∧
    (∀ a : Angle, 1 ≤ a.toNat → a.toNat ≤ 127 → sin8 impl (128 - a) = sin8 impl a) ∧
    (∀ a : Angle, 129 ≤ a.toNat → sin8 impl (BitVec.ofNat 8 (384 - a.toNat)) = sin8 impl a) ∧
    (∀ a : Angle, a ≠ 0 → a ≠ 128 → (sin8 impl (-a)).toInt = -1 - (sin8 impl a).toInt)

/-- R90: the unsigned sine is the signed sine with bit 7 flipped, and both ways; R53: the sine block answers the one its
select input asks for. -/
def Obligations.UnsignedSineIsOffsetBinary : Prop :=
  ∀ (impl : SqImpl) (a : Angle),
    usin8 impl a = sin8 impl a ^^^ 0x80 ∧ sin8 impl a = usin8 impl a ^^^ 0x80 ∧ usin8 impl a = sin8 impl a + 128 ∧
    sineBlock impl a false = sin8 impl a ∧ sineBlock impl a true = usin8 impl a

/-! ## The pulse width (42_pulse_width.md) -/

/-- R124: the range of the sum before truncation, for the reference gains, and the angles at which its sine term is
extreme. -/
def Obligations.PulseSumRange : Prop :=
  ∀ (p : Params) (o : Sample10) (v : Sine) (a : Sample8), p.ReferenceGains →
    (p.pwCenter.toNat : Int) - 1534 ≤ pulseSum p o v a ∧ pulseSum p o v a ≤ p.pwCenter.toNat + 1528 ∧
    (o = 512 → (p.pwCenter.toNat : Int) - 510 ≤ pulseSum p o v a ∧ pulseSum p o v a ≤ p.pwCenter.toNat + 506) ∧
    (a = 0 → pulseSum p o v a = p.pwCenter.toNat + ((o.toNat : Int) - 512) * 2 ∧
      (p.pwCenter.toNat : Int) - 1024 ≤ pulseSum p o v a ∧ pulseSum p o v a ≤ p.pwCenter.toNat + 1022) ∧
    (∀ g : Angle, 187 ≤ g.toNat → g.toNat ≤ 197 → scaledSine p (sin8 p.sqImpl g) 255 = -510) ∧
    (∀ g : Angle, 59 ≤ g.toNat → g.toNat ≤ 69 → scaledSine p (sin8 p.sqImpl g) 255 = 506)

/-- R125: for the reference gains, the sum never leaves 0..65535, over all samples and all angles, exactly when
PW_CENTER is 1534..64007; and at PW_CENTER = 1500 with the largest amplitude in the trough, offset 16 wraps to 65534 and
17 gives 0. -/
def Obligations.NoWrapExactlyInCentreRange : Prop :=
  ∀ p : Params, p.ReferenceGains →
    ((∀ (o : Sample10) (g : Angle) (a : Sample8),
        0 ≤ pulseSum p o (sin8 p.sqImpl g) a ∧ pulseSum p o (sin8 p.sqImpl g) a ≤ 65535) ↔
      1534 ≤ p.pwCenter.toNat ∧ p.pwCenter.toNat ≤ 64007) ∧
    (p.pwCenter = 1500 → ∀ g : Angle, 187 ≤ g.toNat → g.toNat ≤ 197 →
      (pulseWidth p 16 (sin8 p.sqImpl g) 255).toNat = 65534 ∧ (pulseWidth p 17 (sin8 p.sqImpl g) 255).toNat = 0)

/-- R125, second half: where the sum cannot wrap, every pulse width is in the safe range, over all samples and all angles,
exactly when the safe range holds PW_CENTER - 1534 .. PW_CENTER + 1528. R125 does not put the premise that the sum cannot
wrap on this half in so many words: reading the two halves together is the model's (log entry 20, DEDUCED). -/
def Obligations.SafeExactlyWhenRangeFits : Prop :=
  ∀ p : Params, p.ReferenceGains → 1534 ≤ p.pwCenter.toNat → p.pwCenter.toNat ≤ 64007 →
    ((∀ (o : Sample10) (g : Angle) (a : Sample8), SafeWidth p (pulseWidth p o (sin8 p.sqImpl g) a)) ↔
      p.pwSafeMin ≤ p.pwCenter.toNat - 1534 ∧ p.pwCenter.toNat + 1528 ≤ p.pwSafeMax)

/-- R126: the three properties the source states, for the reference gains. -/
def Obligations.SourcePulseProperties : Prop :=
  ∀ p : Params, p.ReferenceGains →
    (∀ v : Sine, pulseWidth p 512 v 0 = p.pwCenter) ∧
    (∀ g : Angle, 510 ≤ p.pwCenter.toNat → p.pwCenter.toNat ≤ 65029 →
      p.pwCenter.toNat - 510 ≤ (pulseWidth p 512 (sin8 p.sqImpl g) 255).toNat ∧
      (pulseWidth p 512 (sin8 p.sqImpl g) 255).toNat ≤ p.pwCenter.toNat + 506) ∧
    pulseWidth p 512 (sin8 p.sqImpl (angleOf 0x4000)) 255 = p.pwCenter + 506

/-! ## The phase (43_phase.md) -/

/-- R132: n advances by the speed samples v_1..v_n leave PHASE at (p + sum of the increments) mod 65536; equal samples
are the source's associativity property. -/
def Obligations.PhaseAccumulates : Prop :=
  ∀ (p : Params) (ph : Phase),
    (∀ vs : List Sample10, (vs.foldl (phaseAdvance p) ph).toNat =
      (ph.toNat + (vs.map fun v => v.toNat * 2 ^ p.speedShift).sum) % 65536) ∧
    (∀ (v : Sample10) (n : Nat), ((fun q => phaseAdvance p q v)^[n] ph).toNat =
      (ph.toNat + n * (v.toNat * 2 ^ p.speedShift) % 65536) % 65536)

/-- R133: for the reference gains and a constant speed sample v, the phase is back where it was exactly after the n
iterations with 16384 dividing n·v; v = 0 never moves it; from v = 64 on the angle changes in every iteration; at
v = 1023 it moves by 15 or 16 steps. -/
def Obligations.SpeedSetsThePeriod : Prop :=
  ∀ p : Params, p.ReferenceGains → ∀ (ph : Phase) (v : Sample10),
    (∀ n : Nat, (fun q => phaseAdvance p q v)^[n] ph = ph ↔ 16384 ∣ n * v.toNat) ∧
    (v = 0 → phaseAdvance p ph v = ph) ∧
    (64 ≤ v.toNat → angleOf (phaseAdvance p ph v) ≠ angleOf ph) ∧
    (v = 1023 → (angleOf (phaseAdvance p ph v) - angleOf ph).toNat = 15 ∨
      (angleOf (phaseAdvance p ph v) - angleOf ph).toNat = 16)

/-! ## Invariants -/

/-- The reset state meets the machine's invariant, the invariant of the reference sequence, and R36's. The hold
and the premise about resets ahead in Inv are log entries 5 and 13, and Inv leaves the line open in a pulse of width 0
(R142, log entry 25); the script of moves is empty at reset by entry 14. -/
def Obligations.ResetMeetsTheInvariants : Prop := State.reset.Inv ∧ State.reset.RefInv ∧ State.reset.PhaseAligned

/-- R36: the low SPEED_SHIFT bits of PHASE are 0 at reset and stay 0 in every step, of whatever sequence; with the reference
value 2, PHASE[1:0] stays 0. -/
def Obligations.StepKeepsPhaseAligned : Prop :=
  State.reset.PhaseAligned ∧
  ∀ s t : State, s.PhaseAligned → step s = .next t →
    t.PhaseAligned ∧ (t.params.speedShift = 2 → t.phase.extractLsb' 0 2 = 0)

/-- R28, R54, R141: every step, of whatever sequence, keeps the machine's invariant: a request outstanding belongs to
the DLY or PULSE at SEQ, the pulse line is high only during the hold of a pulse (R141), and all
through that hold (R46) unless the width is 0, where R142 leaves the level open and the model has a free value (log entry 25).
The model's own in it: the hold as the form of a request outstanding (log entry 5), and R182's premise that resets ahead
release ready collaborators (log entry 13). -/
def Obligations.StepKeepsTheMachineInvariant : Prop :=
  ∀ s t : State, s.Inv → step s = .next t → t.Inv

/-- R147: no step of the reference sequence is ever refused, from reset and from every later boundary: reset and every
boundary meet the invariant of the reference sequence (each register written before it is read, each call admitted, SEQ
in 0..19), and in a state that meets it a step answers a next state that meets it. RefInv contains Inv, and with it two
things that are the model's and not R147's: the premise that every reset ahead releases ready collaborators (R182's, in the
form of log entry 13) and the hold (log entry 5); the line in a pulse of width 0, a free value (log entry 25), is left open in
it, as R142 has it; the reset state meets the premise by its empty script (log entry 14). -/
def Obligations.ReferenceSequenceIsNeverRefused : Prop :=
  State.reset.RefInv ∧ (∀ s : State, s.AtBoundary → s.RefInv) ∧
  ∀ s : State, s.RefInv → ∃ t, step s = .next t ∧ t.RefInv

/-! ## Runs -/

/-- R148, R145: for every boundary and every answer of the environment, when the run reaches the next boundary the state
and the 16 events in between are those of R148, with the gains' reference values. -/
def Obligations.IterationIsR148 : Prop :=
  ∀ (s t : State) (n : Nat), s.AtBoundary → s.params.ReferenceGains → FirstReturn n s t →
    ∃ (off spd : Sample10) (amp : Sample8) (w : Duration),
      w = BitVec.ofInt 16 (s.params.pwCenter.toNat + ((off.toNat : Int) - 512) * 2
        + ((sin8 s.params.sqImpl (angleOf s.phase)).toInt * amp.toNat) / 64) ∧
      t.phase = BitVec.ofNat 16 ((s.phase.toNat + spd.toNat * 4) % 65536) ∧
      t.trace = s.trace ++ iterationEvents s.params off spd amp w ∧
      t.offset = some off ∧ t.speed = some spd ∧ t.ampl = some amp ∧
      t.sine = some (sin8 s.params.sqImpl (angleOf s.phase)) ∧ t.pw = some w ∧
      t.AtBoundary

/-- R135, R148: any number of iterations is the iteration function of R148 applied to the samples one after the other.
So the pulse of an iteration has the angle of the phase before it, which is the start phase plus four times the sum of
the EARLIER speed samples. -/
def Obligations.RunsFollowTheIterationFunction : Prop :=
  ∀ (xs : List Samples) (s t : State), s.AtBoundary → s.params.ReferenceGains → IteratesWith xs s t →
    t.phase = (iterations s.params s.phase xs).1 ∧ t.trace = s.trace ++ (iterations s.params s.phase xs).2 ∧
    t.phase.toNat = (s.phase.toNat + 4 * (xs.map fun x => x.speed.toNat).sum) % 65536 ∧
    (iterations s.params s.phase xs).2.length = 16 * xs.length ∧ t.AtBoundary

/-- The same iteration as one equation, when the environment finishes every operation at once: 24 steps, of which four are
holds, with the answers off, spd, amp. The count is the model's choice and no rule's: a DLY or PULSE takes two steps even
when it is finished at once (log entry 5), and each move comes before the CORE's step (log entry 4). -/
def Obligations.PromptIterationInTwentyFourSteps : Prop :=
  ∀ (s : State) (rest : List EnvMove) (off spd : Sample10) (rest10 : List Sample10) (amp : Sample8) (rest8 : List Sample8),
    s.AtBoundary → s.moves = List.replicate 24 finishAll ++ rest →
    s.answers10 = off :: spd :: rest10 → s.answers8 = amp :: rest8 →
    let sine := sin8 s.params.sqImpl (angleOf s.phase)
    let w := pulseWidth s.params off sine amp
    steps 24 s = .next { s with
      phase := phaseAdvance s.params s.phase spd
      offset := some off, speed := some spd, ampl := some amp, sine := some sine, pw := some w
      env := { s.env with ch := some s.params.chAmpl, conv := .done }
      trace := s.trace ++ iterationEvents s.params off spd amp w
      moves := rest, answers10 := rest10, answers8 := rest8, reads := s.reads + 3, ticks := s.ticks + 24 }

/-- A bound beside R189: among any moves without a reset, 24 moves that finish everything in flight are enough for an
iteration, counted in the model's steps (log entry 5). R189's own premises F1, F2 and F3 are those of
EveryIterationCompletesUnderF1F2F3. -/
def Obligations.FairEnvironmentCompletesIterations : Prop :=
  ∀ (s : State) (ms rest : List EnvMove), s.AtBoundary → s.moves = ms ++ rest → 24 ≤ ms.count finishAll →
    ∃ n t, n ≤ ms.length ∧ FirstReturn n s t

/-- R189: under F1, F2 and F3, whether the environment finishes the operations by moves of their own or together, and
whenever it does, every iteration of the reference sequence completes: for every k, some number of moves is enough for k
iterations. That the environment never holds reset is a premise as well (R180). -/
def Obligations.EveryIterationCompletesUnderF1F2F3 : Prop :=
  ∀ (s : State) (e : Nat → EnvMove), s.AtBoundary → NeverResets e →
    ConversionsComplete e s → SleepsReturn e s → PulsesReturn e s →
    ∀ k : Nat, ∃ (n : Nat) (xs : List Samples) (t : State), xs.length = k ∧ IteratesWith xs (s.under e n) t

/-- R162: at a WAIT whose conversion the environment does not finish, nothing changes for as long as that lasts: SEQ,
every register, ENV and the trace stay. -/
def Obligations.HangHoldsForEver : Prop :=
  ∀ (s : State) (ms rest : List EnvMove),
    (∀ w ∈ s.uop, legalWord w = true) → s.uop[s.seq.toNat]? = some (encode .wait) →
    s.env.conv = .busy → s.hold = .none → s.env.level s.params.pulseLine = false →
    s.moves = ms ++ rest → (∀ m ∈ ms, m.leavesConversion = true) →
    steps ms.length s = .next { s with moves := rest, ticks := s.ticks + ms.length }

/-- R35: at a boundary of the reference sequence nothing but PHASE carries over: whatever the other five registers hold, and
whichever admitted state ENV is in (Idle or Done, any channel selected), the run gives the same trace, PHASE and SEQ for
the same answers and moves of the environment. -/
def Obligations.OnlyPhaseCarriesOver : Prop :=
  ∀ (s : State) (o v : Option Sample10) (a : Option Sample8) (n : Option Sine) (w : Option Duration) (e : Env) (k : Nat)
    (t : State), s.AtBoundary → e.ready s.params → steps k s = .next t →
    ∃ u, steps k { s with offset := o, speed := v, ampl := a, sine := n, pw := w, env := e } = .next u ∧
      u.trace = t.trace ∧ u.phase = t.phase ∧ u.seq = t.seq ∧ u.hold = t.hold

/-- R149: PHADV commutes with PWCALC and with PULSE, in both directions: where one order runs, the other runs to the same
state, trace included; it does not commute with SIN8. One exec of PULSE is one part of it only, the call, a held step or the
completion (log entry 5), and PHADV commutes with each. -/
def Obligations.PhadvCommutes : Prop :=
  (∀ s u : State, (∃ t, exec .phadv s = .next t ∧ exec .pwcalc t = .next u) ↔
    ∃ v, exec .pwcalc s = .next v ∧ exec .phadv v = .next u) ∧
  (∀ s u : State, (∃ t, exec .phadv s = .next t ∧ exec .pulse t = .next u) ↔
    ∃ v, exec .pulse s = .next v ∧ exec .phadv v = .next u) ∧
  ∃ s t u v w : State, exec .phadv s = .next t ∧ exec .sin8 t = .next u ∧ exec .sin8 s = .next v ∧ exec .phadv v = .next w ∧
    u.sine ≠ w.sine

/-- R183: the first iteration after reset, for whatever OPEN parameters were built, whatever the environment does short
of a reset and whatever it answers: SINE is 0xFF, the pulse is PW_CENTER plus 2·(off - 512) plus floor(-amp / 64), and
PHASE becomes 4·spd. -/
def Obligations.FirstPulseAfterReset : Prop :=
  ∀ (p : Params) (ms : List EnvMove) (as : List Sample10) (bs : List Sample8) (n : Nat) (t : State),
    p.ReferenceGains → NoReset ms →
    FirstReturn n { State.reset with
      params := p, uop := referenceWords p, moves := ms, answers10 := as, answers8 := bs } t →
    ∃ (off spd : Sample10) (amp : Sample8) (w : Duration),
      w = BitVec.ofInt 16 (p.pwCenter.toNat + 2 * ((off.toNat : Int) - 512) + (-(amp.toNat : Int)) / 64) ∧
      t.trace = iterationEvents p off spd amp w ∧ t.sine = some 0xFF ∧ t.pw = some w ∧ t.phase.toNat = 4 * spd.toNat

/-- R125, R190: with parameters that meet R125's condition, every pulse the reference sequence emits is in the safe
range: a safe trace stays safe over an iteration. -/
def Obligations.SafeTraceStaysSafe : Prop :=
  ∀ (s t : State) (n : Nat), s.AtBoundary → s.params.ReferenceGains →
    1534 ≤ s.params.pwCenter.toNat → s.params.pwCenter.toNat ≤ 64007 →
    s.params.pwSafeMin ≤ s.params.pwCenter.toNat - 1534 → s.params.pwCenter.toNat + 1528 ≤ s.params.pwSafeMax →
    SafeTrace s.params s.trace → FirstReturn n s t → SafeTrace t.params t.trace
end

