-- ==== Sys2Proof/Laws/Decode.lean ====
section
/-! SUPPORT. Lemmas about the decoder and the encoder (30_encoding.md R66 to R71). -/

namespace Sys2Proof

/-- The word of a micro-operation decodes to it, by constructor. -/
theorem decodeWord_encode (i : Instr) : decodeWord (encode i) = .ok i := by
  cases i with
  | sel ch => revert ch; decide
  | rd10 d => cases d <;> decide
  | _ => decide

/-- A word that decodes is the word of what it decodes to: every bit of a legal word is accounted for. -/
theorem encode_of_decodeWord {w : Byte} {i : Instr} (h : decodeWord w = .ok i) : w = encode i := by
  have key : ∀ w : Byte, (match decodeWord w with | .ok i => decide (w = encode i) | .error _ => true) = true := by
    decide +kernel
  have := key w
  rw [h] at this
  exact of_decide_eq_true this

/-- A word is legal when it is the word of a micro-operation. -/
theorem legalWord_iff (w : Byte) : legalWord w = true ↔ ∃ i, decodeWord w = .ok i := by
  unfold legalWord
  cases decodeWord w <;> simp

@[simp] theorem legalWord_encode (i : Instr) : legalWord (encode i) = true :=
  (legalWord_iff _).2 ⟨i, decodeWord_encode i⟩

theorem legal_encodeAll (is : List Instr) : (encodeAll is).all legalWord = true := by
  simp [encodeAll]

theorem legal_referenceWords (p : Params) : (referenceWords p).all legalWord = true := legal_encodeAll _

@[simp] theorem length_referenceWords (p : Params) : (referenceWords p).length = 20 := rfl

end Sys2Proof
end

