-- ==== Sys2Proof/Laws/State.lean ====
section
/-! SUPPORT. One lemma per field per shared update of State, each true by rfl, so that no proof unfolds an update. -/

namespace Sys2Proof.Machine

@[simp] theorem record_phase (e : Event) (s : State) : (record e s).phase = s.phase := rfl
@[simp] theorem record_offset (e : Event) (s : State) : (record e s).offset = s.offset := rfl
@[simp] theorem record_speed (e : Event) (s : State) : (record e s).speed = s.speed := rfl
@[simp] theorem record_ampl (e : Event) (s : State) : (record e s).ampl = s.ampl := rfl
@[simp] theorem record_sine (e : Event) (s : State) : (record e s).sine = s.sine := rfl
@[simp] theorem record_pw (e : Event) (s : State) : (record e s).pw = s.pw := rfl
@[simp] theorem record_seq (e : Event) (s : State) : (record e s).seq = s.seq := rfl
@[simp] theorem record_hold (e : Event) (s : State) : (record e s).hold = s.hold := rfl
@[simp] theorem record_env (e : Event) (s : State) : (record e s).env = s.env := rfl
@[simp] theorem record_trace (e : Event) (s : State) : (record e s).trace = s.trace ++ [e] := rfl
@[simp] theorem record_params (e : Event) (s : State) : (record e s).params = s.params := rfl
@[simp] theorem record_uop (e : Event) (s : State) : (record e s).uop = s.uop := rfl
@[simp] theorem record_moves (e : Event) (s : State) : (record e s).moves = s.moves := rfl
@[simp] theorem record_answers10 (e : Event) (s : State) : (record e s).answers10 = s.answers10 := rfl
@[simp] theorem record_answers8 (e : Event) (s : State) : (record e s).answers8 = s.answers8 := rfl
@[simp] theorem record_reads (e : Event) (s : State) : (record e s).reads = s.reads := rfl
@[simp] theorem record_ticks (e : Event) (s : State) : (record e s).ticks = s.ticks := rfl

@[simp] theorem envSleep_phase (us : Duration) (s : State) : (envSleep us s).phase = s.phase := rfl
@[simp] theorem envSleep_offset (us : Duration) (s : State) : (envSleep us s).offset = s.offset := rfl
@[simp] theorem envSleep_speed (us : Duration) (s : State) : (envSleep us s).speed = s.speed := rfl
@[simp] theorem envSleep_ampl (us : Duration) (s : State) : (envSleep us s).ampl = s.ampl := rfl
@[simp] theorem envSleep_sine (us : Duration) (s : State) : (envSleep us s).sine = s.sine := rfl
@[simp] theorem envSleep_pw (us : Duration) (s : State) : (envSleep us s).pw = s.pw := rfl
@[simp] theorem envSleep_seq (us : Duration) (s : State) : (envSleep us s).seq = s.seq := rfl
@[simp] theorem envSleep_hold (us : Duration) (s : State) : (envSleep us s).hold = .sleeping := rfl
@[simp] theorem envSleep_env (us : Duration) (s : State) : (envSleep us s).env = s.env := rfl
@[simp] theorem envSleep_trace (us : Duration) (s : State) : (envSleep us s).trace = s.trace ++ [.sleep us] := rfl
@[simp] theorem envSleep_params (us : Duration) (s : State) : (envSleep us s).params = s.params := rfl
@[simp] theorem envSleep_uop (us : Duration) (s : State) : (envSleep us s).uop = s.uop := rfl
@[simp] theorem envSleep_moves (us : Duration) (s : State) : (envSleep us s).moves = s.moves := rfl
@[simp] theorem envSleep_answers10 (us : Duration) (s : State) : (envSleep us s).answers10 = s.answers10 := rfl
@[simp] theorem envSleep_answers8 (us : Duration) (s : State) : (envSleep us s).answers8 = s.answers8 := rfl
@[simp] theorem envSleep_reads (us : Duration) (s : State) : (envSleep us s).reads = s.reads := rfl
@[simp] theorem envSleep_ticks (us : Duration) (s : State) : (envSleep us s).ticks = s.ticks := rfl

@[simp] theorem takeMove_phase (s : State) : (s.takeMove).phase = s.phase := rfl
@[simp] theorem takeMove_offset (s : State) : (s.takeMove).offset = s.offset := rfl
@[simp] theorem takeMove_speed (s : State) : (s.takeMove).speed = s.speed := rfl
@[simp] theorem takeMove_ampl (s : State) : (s.takeMove).ampl = s.ampl := rfl
@[simp] theorem takeMove_sine (s : State) : (s.takeMove).sine = s.sine := rfl
@[simp] theorem takeMove_pw (s : State) : (s.takeMove).pw = s.pw := rfl
@[simp] theorem takeMove_seq (s : State) : (s.takeMove).seq = s.seq := rfl
@[simp] theorem takeMove_hold (s : State) : (s.takeMove).hold = s.hold := rfl
@[simp] theorem takeMove_env (s : State) : (s.takeMove).env = s.env := rfl
@[simp] theorem takeMove_trace (s : State) : (s.takeMove).trace = s.trace := rfl
@[simp] theorem takeMove_params (s : State) : (s.takeMove).params = s.params := rfl
@[simp] theorem takeMove_uop (s : State) : (s.takeMove).uop = s.uop := rfl
@[simp] theorem takeMove_moves (s : State) : (s.takeMove).moves = s.moves.tail := rfl
@[simp] theorem takeMove_answers10 (s : State) : (s.takeMove).answers10 = s.answers10 := rfl
@[simp] theorem takeMove_answers8 (s : State) : (s.takeMove).answers8 = s.answers8 := rfl
@[simp] theorem takeMove_reads (s : State) : (s.takeMove).reads = s.reads := rfl
@[simp] theorem takeMove_ticks (s : State) : (s.takeMove).ticks = s.ticks + 1 := rfl

@[simp] theorem envFinish_phase (f : Finish) (s : State) : (envFinish f s).phase = s.phase := rfl
@[simp] theorem envFinish_offset (f : Finish) (s : State) : (envFinish f s).offset = s.offset := rfl
@[simp] theorem envFinish_speed (f : Finish) (s : State) : (envFinish f s).speed = s.speed := rfl
@[simp] theorem envFinish_ampl (f : Finish) (s : State) : (envFinish f s).ampl = s.ampl := rfl
@[simp] theorem envFinish_sine (f : Finish) (s : State) : (envFinish f s).sine = s.sine := rfl
@[simp] theorem envFinish_pw (f : Finish) (s : State) : (envFinish f s).pw = s.pw := rfl
@[simp] theorem envFinish_seq (f : Finish) (s : State) : (envFinish f s).seq = s.seq := rfl
@[simp] theorem envFinish_hold (f : Finish) (s : State) : (envFinish f s).hold = s.hold.finish f := rfl
@[simp] theorem envFinish_env (f : Finish) (s : State) : (envFinish f s).env = { s.env.finishPulse s.params.pulseLine f.pulse with conv := s.env.conv.finish f.conv } := rfl
@[simp] theorem envFinish_trace (f : Finish) (s : State) : (envFinish f s).trace = s.trace := rfl
@[simp] theorem envFinish_params (f : Finish) (s : State) : (envFinish f s).params = s.params := rfl
@[simp] theorem envFinish_uop (f : Finish) (s : State) : (envFinish f s).uop = s.uop := rfl
@[simp] theorem envFinish_moves (f : Finish) (s : State) : (envFinish f s).moves = s.moves := rfl
@[simp] theorem envFinish_answers10 (f : Finish) (s : State) : (envFinish f s).answers10 = s.answers10 := rfl
@[simp] theorem envFinish_answers8 (f : Finish) (s : State) : (envFinish f s).answers8 = s.answers8 := rfl
@[simp] theorem envFinish_reads (f : Finish) (s : State) : (envFinish f s).reads = s.reads := rfl
@[simp] theorem envFinish_ticks (f : Finish) (s : State) : (envFinish f s).ticks = s.ticks := rfl

@[simp] theorem resetCore_phase (e : Env) (s : State) : (resetCore e s).phase = 0 := rfl
@[simp] theorem resetCore_offset (e : Env) (s : State) : (resetCore e s).offset = none := rfl
@[simp] theorem resetCore_speed (e : Env) (s : State) : (resetCore e s).speed = none := rfl
@[simp] theorem resetCore_ampl (e : Env) (s : State) : (resetCore e s).ampl = none := rfl
@[simp] theorem resetCore_sine (e : Env) (s : State) : (resetCore e s).sine = none := rfl
@[simp] theorem resetCore_pw (e : Env) (s : State) : (resetCore e s).pw = none := rfl
@[simp] theorem resetCore_seq (e : Env) (s : State) : (resetCore e s).seq = 0 := rfl
@[simp] theorem resetCore_hold (e : Env) (s : State) : (resetCore e s).hold = .none := rfl
@[simp] theorem resetCore_env (e : Env) (s : State) : (resetCore e s).env = e := rfl
@[simp] theorem resetCore_trace (e : Env) (s : State) : (resetCore e s).trace = [] := rfl
@[simp] theorem resetCore_params (e : Env) (s : State) : (resetCore e s).params = s.params := rfl
@[simp] theorem resetCore_uop (e : Env) (s : State) : (resetCore e s).uop = s.uop := rfl
@[simp] theorem resetCore_moves (e : Env) (s : State) : (resetCore e s).moves = s.moves := rfl
@[simp] theorem resetCore_answers10 (e : Env) (s : State) : (resetCore e s).answers10 = s.answers10 := rfl
@[simp] theorem resetCore_answers8 (e : Env) (s : State) : (resetCore e s).answers8 = s.answers8 := rfl
@[simp] theorem resetCore_reads (e : Env) (s : State) : (resetCore e s).reads = s.reads := rfl
@[simp] theorem resetCore_ticks (e : Env) (s : State) : (resetCore e s).ticks = s.ticks := rfl

/-! The destination of RD10 is one register; the rest of the state stays. -/

@[simp] theorem writeDest_offset_eq (v : Sample10) (s : State) : writeDest .offset v s = { s with offset := some v } := rfl
@[simp] theorem writeDest_speed_eq (v : Sample10) (s : State) : writeDest .speed v s = { s with speed := some v } := rfl

/-! The levels of the output lines. -/

@[simp] theorem level_drive_same (l : Line) (v : Bool) (e : Env) : (e.drive l v).level l = v := by
  simp [Env.drive, Env.level]

theorem level_drive_other (l k : Line) (v : Bool) (e : Env) (h : k ≠ l) : (e.drive l v).level k = e.level k := by
  have : l.toNat ≠ k.toNat := fun hk => h (BitVec.eq_of_toNat_eq hk.symm)
  simp [Env.drive, Env.level, this]

@[simp] theorem drive_ch (l : Line) (v : Bool) (e : Env) : (e.drive l v).ch = e.ch := rfl
@[simp] theorem drive_conv (l : Line) (v : Bool) (e : Env) : (e.drive l v).conv = e.conv := rfl

/-- Driving a line to any level and then low leaves a line that was low as it was. -/
theorem drive_then_low (l : Line) (v : Bool) (e : Env) (h : e.level l = false) : (e.drive l v).drive l false = e := by
  obtain ⟨ch, conv, line⟩ := e
  simp only [Env.level] at h
  simp only [Env.drive, Env.mk.injEq, true_and]
  ext i hi
  by_cases hk : l.toNat = i
  · subst hk; simp [h]
  · simp [hk]

@[simp] theorem level_atReset (l : Line) : Env.atReset.level l = false := by simp [Env.level, Env.atReset]

@[simp] theorem finishPulse_ch (l : Line) (f : Bool) (e : Env) : (e.finishPulse l f).ch = e.ch := rfl
@[simp] theorem finishPulse_conv (l : Line) (f : Bool) (e : Env) : (e.finishPulse l f).conv = e.conv := rfl

/-- Finishing a pulse drives the line low if it is high, and leaves the environment as it is otherwise. -/
theorem finishPulse_eq (l : Line) (f : Bool) (e : Env) :
    e.finishPulse l f = if e.level l && f then e.drive l false else e := by
  unfold Env.finishPulse; split <;> rfl

/-- After a move of the environment the line is high exactly if it was and the pulse was not finished. -/
@[simp] theorem level_finishPulse_same (l : Line) (f : Bool) (e : Env) :
    (e.finishPulse l f).level l = (e.level l && !f) := by
  rw [finishPulse_eq]
  cases h : e.level l <;> cases f <;> simp [h]

/-- Finishing a pulse touches no other line. -/
theorem level_finishPulse_other (l k : Line) (f : Bool) (e : Env) (h : k ≠ l) :
    (e.finishPulse l f).level k = e.level k := by
  rw [finishPulse_eq]
  split
  · exact level_drive_other l k false e h
  · rfl

/-- A pulse called on a low line and then finished leaves the environment as it was, whether or not the line rose. -/
theorem finishPulse_drive (l : Line) (v : Bool) (e : Env) (h : e.level l = false) : (e.drive l v).finishPulse l true = e := by
  cases v
  · have hd : (e.drive l false).level l = false := level_drive_same l false e
    rw [finishPulse_eq, hd]
    simpa [Env.drive] using drive_then_low l false e h
  · rw [finishPulse_eq, level_drive_same]
    exact drive_then_low l true e h

/-- With the line low, finishing a pulse changes nothing. -/
theorem finishPulse_low (l : Line) (f : Bool) (e : Env) (h : e.level l = false) : e.finishPulse l f = e := by
  simp [finishPulse_eq, h]

end Sys2Proof.Machine
end

