-- ==== Sys2Proof/Laws/Ops.lean ====
section
/-! SUPPORT. What each shared operation can do, once: callers cite these and do not unfold the operations. -/

namespace Sys2Proof.Machine

@[simp] theorem andThen_next (a : α) (k : α → Res β) : andThen (.next a) k = k a := rfl
@[simp] theorem andThen_refused (r : Refusal) (k : α → Res β) : andThen (.refused r) k = .refused r := rfl

/-- A sequence of two operations answers a next state exactly when both do. -/
theorem andThen_eq_next {o : Res α} {k : α → Res β} {b : β} :
    andThen o k = .next b ↔ ∃ a, o = .next a ∧ k a = .next b := by
  cases o with
  | next a => simp
  | fault f => cases f
  | refused r => simp

/-- A sequence of two operations is refused by the first that is refused. -/
theorem andThen_eq_refused {o : Res α} {k : α → Res β} {r : Refusal} :
    andThen o k = .refused r ↔ o = .refused r ∨ ∃ a, o = .next a ∧ k a = .refused r := by
  cases o with
  | next a => simp
  | fault f => cases f
  | refused q => simp

/-- SEQ advances by one, or passes the end at 31. -/
theorem advance_eq_next {s t : State} : advance s = .next t ↔ s.seq ≠ 31 ∧ t = { s with seq := s.seq + 1 } := by
  unfold advance; split <;> simp_all [eq_comm]

theorem advance_eq_refused {s : State} {r : Refusal} : advance s = .refused r ↔ s.seq = 31 ∧ r = .seqPastEnd := by
  unfold advance; split <;> simp_all [eq_comm (b := r)]

theorem withValue_eq_next {r : Option α} {k : α → Res β} {b : β} :
    withValue r k = .next b ↔ ∃ v, r = some v ∧ k v = .next b := by
  cases r <;> simp [withValue]

theorem withValue_eq_refused {r : Option α} {k : α → Res β} {q : Refusal} :
    withValue r k = .refused q ↔ (r = none ∧ q = .unwrittenRegister) ∨ ∃ v, r = some v ∧ k v = .refused q := by
  cases r <;> simp [withValue, eq_comm (b := q)]

/-- `EnvSelect` is admitted exactly when no conversion is in flight (R46). -/
theorem envSelect_eq_next {ch : Channel} {s t : State} :
    envSelect ch s = .next t ↔
      s.env.conv ≠ .busy ∧ t = { s with env := { s.env with ch := some ch }, trace := s.trace ++ [.sel ch] } := by
  unfold envSelect; cases h : s.env.conv <;> simp [record, eq_comm (b := t)]

theorem envSelect_eq_refused {ch : Channel} {s : State} {r : Refusal} :
    envSelect ch s = .refused r ↔ s.env.conv = .busy ∧ r = .selectWhileBusy := by
  unfold envSelect; cases h : s.env.conv <;> simp [eq_comm (b := r)]

/-- `EnvBegin` is admitted exactly when a channel is selected and no conversion is in flight (R46). -/
theorem envBegin_eq_next {s t : State} :
    envBegin s = .next t ↔ s.env.ch ≠ none ∧ s.env.conv ≠ .busy ∧
      t = { s with env := { s.env with conv := .busy }, trace := s.trace ++ [.start] } := by
  unfold envBegin; cases hc : s.env.ch <;> cases h : s.env.conv <;> simp [record, eq_comm (b := t)]

theorem envBegin_eq_refused {s : State} {r : Refusal} :
    envBegin s = .refused r ↔ (s.env.ch = none ∧ r = .beginWithoutChannel) ∨
      (s.env.ch ≠ none ∧ s.env.conv = .busy ∧ r = .beginWhileBusy) := by
  unfold envBegin; cases hc : s.env.ch <;> cases h : s.env.conv <;> simp [eq_comm (b := r)]

/-- `EnvReady` answers whether the conversion is done (R46). -/
theorem envReady_eq_next {s : State} {b : Bool} :
    envReady s = .next b ↔ s.env.conv ≠ .idle ∧ (b = true ↔ s.env.conv = .done) := by
  unfold envReady; cases h : s.env.conv <;> cases b <;> simp

theorem envReady_eq_refused {s : State} {r : Refusal} :
    envReady s = .refused r ↔ s.env.conv = .idle ∧ r = .readyWithoutConversion := by
  unfold envReady; cases h : s.env.conv <;> simp [eq_comm (b := r)]

/-- `EnvRead10` is admitted exactly when the conversion is done, and consumes one answer (R46, R47). -/
theorem envRead10_eq_next {s : State} {r : Sample10 × State} :
    envRead10 s = .next r ↔ s.env.conv = .done ∧ r = (s.answer10,
      { s with trace := s.trace ++ [.read10 s.answer10], answers10 := s.answers10.tail, reads := s.reads + 1 }) := by
  unfold envRead10; cases h : s.env.conv <;> simp [record, eq_comm (b := r)]

theorem envRead10_eq_refused {s : State} {r : Refusal} :
    envRead10 s = .refused r ↔ s.env.conv ≠ .done ∧ r = .readBeforeReady := by
  unfold envRead10; cases h : s.env.conv <;> simp [eq_comm (b := r)]

/-- `EnvRead8` is admitted exactly when the conversion is done, and consumes one answer (R46, R47). -/
theorem envRead8_eq_next {s : State} {r : Sample8 × State} :
    envRead8 s = .next r ↔ s.env.conv = .done ∧ r = (s.answer8,
      { s with trace := s.trace ++ [.read8 s.answer8], answers8 := s.answers8.tail, reads := s.reads + 1 }) := by
  unfold envRead8; cases h : s.env.conv <;> simp [record, eq_comm (b := r)]

theorem envRead8_eq_refused {s : State} {r : Refusal} :
    envRead8 s = .refused r ↔ s.env.conv ≠ .done ∧ r = .readBeforeReady := by
  unfold envRead8; cases h : s.env.conv <;> simp [eq_comm (b := r)]

/-- A pulse of a width above 0 raises its line, whatever the free value is (R46). -/
@[simp] theorem pulseRises_of_ne_zero {us : Duration} (h : us ≠ 0#16) (n : Nat) : pulseRises us n = true := by
  have hz : (us != 0) = true := bne_iff_ne.2 h
  simp only [pulseRises, hz, Bool.true_or]

/-- At width 0 whether the line rises is the free value and nothing else (R142). -/
@[simp] theorem pulseRises_zero (n : Nat) : pulseRises 0#16 n = Config.freeZeroWidthRises n := by simp [pulseRises]

/-- `EnvPulse` is admitted exactly when the line is low, and drives it to what `pulseRises` says (R46, R140, R142). -/
theorem envPulse_eq_next {l : Line} {us : Duration} {s t : State} :
    envPulse l us s = .next t ↔ s.env.level l = false ∧
      t = { s with env := s.env.drive l (pulseRises us s.ticks), hold := .pulsing, trace := s.trace ++ [.pulse l us] } := by
  unfold envPulse; split <;> simp_all [record, eq_comm (b := t)]

theorem envPulse_eq_refused {l : Line} {us : Duration} {s : State} {r : Refusal} :
    envPulse l us s = .refused r ↔ s.env.level l = true ∧ r = .pulseWhileHigh := by
  unfold envPulse; split <;> simp_all [eq_comm (b := r)]

/-- A sample the script names is the one answered (R47). -/
@[simp] theorem answer10_scripted (s : State) (v : Sample10) (vs : List Sample10) (h : s.answers10 = v :: vs) :
    s.answer10 = v := by simp [State.answer10, h]

@[simp] theorem answer8_scripted (s : State) (v : Sample8) (vs : List Sample8) (h : s.answers8 = v :: vs) :
    s.answer8 = v := by simp [State.answer8, h]

/-- Fetching looks at the sequence and SEQ only. -/
theorem fetch_congr {s t : State} (hu : s.uop = t.uop) (hq : s.seq = t.seq) : fetch s = fetch t := by
  unfold fetch; rw [hu, hq]

@[simp] theorem fetch_afterMove (f : Finish) (s : State) : fetch (envFinish f s.takeMove) = fetch s := fetch_congr rfl rfl

/-- The word at SEQ of a sequence of legal words is the word of a micro-operation. -/
theorem word_at_seq {s : State} {w : Byte} (hl : s.uop.all legalWord = true) (hw : s.uop[s.seq.toNat]? = some w) :
    ∃ i, w = encode i := by
  obtain ⟨i, hi⟩ := (legalWord_iff w).1 (List.all_eq_true.1 hl w (List.mem_of_getElem? hw))
  exact ⟨i, encode_of_decodeWord hi⟩

/-- Fetching, by cases: an illegal word anywhere, SEQ past the end, or the micro-operation at SEQ (R28, R68, R71). -/
theorem fetch_cases (s : State) :
    (s.uop.all legalWord = false ∧ fetch s = .refused .illegalUop) ∨
    (s.uop.all legalWord = true ∧ s.uop.length ≤ s.seq.toNat ∧ fetch s = .refused .seqPastEnd) ∨
    ∃ i, s.uop.all legalWord = true ∧ s.uop[s.seq.toNat]? = some (encode i) ∧ fetch s = .next i := by
  cases hl : s.uop.all legalWord with
  | false => simp [fetch, hl]
  | true =>
    cases hw : s.uop[s.seq.toNat]? with
    | none =>
      have := List.getElem?_eq_none_iff.1 hw
      exact .inr (.inl ⟨rfl, this, by simp [fetch, hl, hw]⟩)
    | some w =>
      obtain ⟨i, rfl⟩ := word_at_seq hl hw
      exact .inr (.inr ⟨i, rfl, rfl, by simp [fetch, hl, hw, decodeWord_encode]⟩)

/-- Fetching answers the micro-operation whose word stands at SEQ, in a sequence of legal words (R68, R71). -/
theorem fetch_eq_next {s : State} {i : Instr} :
    fetch s = .next i ↔ s.uop.all legalWord = true ∧ s.uop[s.seq.toNat]? = some (encode i) := by
  constructor
  · intro h
    rcases fetch_cases s with ⟨-, hf⟩ | ⟨-, -, hf⟩ | ⟨j, hl, hw, hf⟩
    · simp [hf] at h
    · simp [hf] at h
    · rw [hf] at h
      cases h
      exact ⟨hl, hw⟩
  · rintro ⟨hl, hw⟩
    simp [fetch, hl, hw, decodeWord_encode]

end Sys2Proof.Machine
end

