-- ==== Sys2Proof/Laws/Meanings.lean ====
section
/-! SUPPORT. What each meaning can do, once: when it answers a next state, and which one. Every later proof about a
micro-operation cites its lemma and does not unfold the meaning. -/

namespace Sys2Proof.Machine

theorem execSel_eq_next {ch : Channel} {s t : State} : execSel ch s = .next t ↔ s.env.conv ≠ .busy ∧ s.seq ≠ 31 ∧
    t = { s with env := { s.env with ch := some ch }, trace := s.trace ++ [.sel ch], seq := s.seq + 1 } := by
  simp only [execSel, andThen_eq_next, envSelect_eq_next, advance_eq_next]
  constructor
  · rintro ⟨_, ⟨h, rfl⟩, hq, rfl⟩; exact ⟨h, hq, rfl⟩
  · rintro ⟨h, hq, rfl⟩; exact ⟨_, ⟨h, rfl⟩, hq, rfl⟩

theorem execConv_eq_next {s t : State} : execConv s = .next t ↔ s.env.ch ≠ none ∧ s.env.conv ≠ .busy ∧ s.seq ≠ 31 ∧
    t = { s with env := { s.env with conv := .busy }, trace := s.trace ++ [.start], seq := s.seq + 1 } := by
  simp only [execConv, andThen_eq_next, envBegin_eq_next, advance_eq_next]
  constructor
  · rintro ⟨_, ⟨h, h2, rfl⟩, hq, rfl⟩; exact ⟨h, h2, hq, rfl⟩
  · rintro ⟨h, h2, hq, rfl⟩; exact ⟨_, ⟨h, h2, rfl⟩, hq, rfl⟩

/-- DLY by the request outstanding: it makes the call, it is held, or it goes on. -/
theorem execDly_eq_next {s t : State} : execDly s = .next t ↔
    (s.hold = .none ∧ t = { s with hold := .sleeping, trace := s.trace ++ [.sleep s.params.tSampleUs] }) ∨
    ((s.hold = .sleeping ∨ s.hold = .pulsing ∨ s.hold = .pulsed) ∧ t = s) ∨
    (s.hold = .slept ∧ s.seq ≠ 31 ∧ t = { s with hold := .none, seq := s.seq + 1 }) := by
  unfold execDly
  cases h : s.hold <;> simp [advance_eq_next, envSleep, record, eq_comm (b := t)]

/-- WAIT passes when the conversion is done and is held while it is in flight. -/
theorem execWait_eq_next {s t : State} : execWait s = .next t ↔
    (s.env.conv = .done ∧ s.seq ≠ 31 ∧ t = { s with trace := s.trace ++ [.ready], seq := s.seq + 1 }) ∨
    (s.env.conv = .busy ∧ t = s) := by
  unfold execWait envReady
  cases h : s.env.conv <;> simp [advance_eq_next, record, eq_comm (b := t)]

theorem execRd10_eq_next {d : Dest10} {s t : State} : execRd10 d s = .next t ↔ s.env.conv = .done ∧ s.seq ≠ 31 ∧
    t = { writeDest d s.answer10 s with
      trace := s.trace ++ [.read10 s.answer10], seq := s.seq + 1
      answers10 := s.answers10.tail, reads := s.reads + 1 } := by
  simp only [execRd10, andThen_eq_next, envRead10_eq_next, advance_eq_next]
  constructor
  · rintro ⟨_, ⟨h, rfl⟩, hq, rfl⟩; cases d <;> exact ⟨h, hq, rfl⟩
  · rintro ⟨h, hq, rfl⟩; cases d <;> exact ⟨_, ⟨h, rfl⟩, hq, rfl⟩

theorem execRd8_eq_next {s t : State} : execRd8 s = .next t ↔ s.env.conv = .done ∧ s.seq ≠ 31 ∧
    t = { s with
      ampl := some s.answer8, trace := s.trace ++ [.read8 s.answer8], seq := s.seq + 1
      answers8 := s.answers8.tail, reads := s.reads + 1 } := by
  simp only [execRd8, andThen_eq_next, envRead8_eq_next, advance_eq_next]
  constructor
  · rintro ⟨_, ⟨h, rfl⟩, hq, rfl⟩; exact ⟨h, hq, rfl⟩
  · rintro ⟨h, hq, rfl⟩; exact ⟨_, ⟨h, rfl⟩, hq, rfl⟩

theorem execSin8_eq_next {s t : State} : execSin8 s = .next t ↔ s.seq ≠ 31 ∧
    t = { s with sine := some (sin8 s.params.sqImpl (angleOf s.phase)), seq := s.seq + 1 } := by
  simp [execSin8, advance_eq_next]

theorem execUsin8_eq_next {s t : State} : execUsin8 s = .next t ↔ s.seq ≠ 31 ∧
    t = { s with sine := some (usin8 s.params.sqImpl (angleOf s.phase)), seq := s.seq + 1 } := by
  simp [execUsin8, advance_eq_next]

theorem execPwcalc_eq_next {s t : State} : execPwcalc s = .next t ↔ ∃ o a v, s.offset = some o ∧ s.ampl = some a ∧
    s.sine = some v ∧ s.seq ≠ 31 ∧ t = { s with pw := some (pulseWidth s.params o v a), seq := s.seq + 1 } := by
  simp only [execPwcalc, withValue_eq_next, advance_eq_next]
  constructor
  · rintro ⟨o, ho, a, ha, v, hv, hq, rfl⟩; exact ⟨o, a, v, ho, ha, hv, hq, rfl⟩
  · rintro ⟨o, a, v, ho, ha, hv, hq, rfl⟩; exact ⟨o, ho, a, ha, v, hv, hq, rfl⟩

theorem execPhadv_eq_next {s t : State} : execPhadv s = .next t ↔ ∃ v, s.speed = some v ∧ s.seq ≠ 31 ∧
    t = { s with phase := phaseAdvance s.params s.phase v, seq := s.seq + 1 } := by
  simp only [execPhadv, withValue_eq_next, advance_eq_next]

/-- PULSE by the request outstanding: it makes the call, it is held, or it goes on. -/
theorem execPulse_eq_next {s t : State} : execPulse s = .next t ↔
    (∃ w, s.hold = .none ∧ s.pw = some w ∧ s.env.level s.params.pulseLine = false ∧
      t = { s with
        env := s.env.drive s.params.pulseLine (pulseRises w s.ticks), hold := .pulsing
        trace := s.trace ++ [.pulse s.params.pulseLine w] }) ∨
    ((s.hold = .pulsing ∨ s.hold = .sleeping ∨ s.hold = .slept) ∧ t = s) ∨
    (s.hold = .pulsed ∧ s.seq ≠ 31 ∧ t = { s with hold := .none, seq := s.seq + 1 }) := by
  unfold execPulse
  cases h : s.hold <;> simp [advance_eq_next, withValue_eq_next, envPulse_eq_next, eq_comm (b := t)]

theorem execLoop_eq_next {s t : State} : execLoop s = .next t ↔ t = { s with seq := 0 } := by
  simp [execLoop, eq_comm (b := t)]

/-! ### The frame common to all meanings -/

/-- A meaning that answers a next state leaves the parameters, the sequence, the environment's moves and the step count as
they are. -/
theorem exec_keeps_arguments {i : Instr} {s t : State} (h : exec i s = .next t) :
    t.params = s.params ∧ t.uop = s.uop ∧ t.moves = s.moves ∧ t.ticks = s.ticks := by
  cases i with
  | sel ch => obtain ⟨-, -, rfl⟩ := execSel_eq_next.1 h; exact ⟨rfl, rfl, rfl, rfl⟩
  | conv => obtain ⟨-, -, -, rfl⟩ := execConv_eq_next.1 h; exact ⟨rfl, rfl, rfl, rfl⟩
  | dly => obtain ⟨-, rfl⟩ | ⟨-, rfl⟩ | ⟨-, -, rfl⟩ := execDly_eq_next.1 h <;> exact ⟨rfl, rfl, rfl, rfl⟩
  | wait => obtain ⟨-, -, rfl⟩ | ⟨-, rfl⟩ := execWait_eq_next.1 h <;> exact ⟨rfl, rfl, rfl, rfl⟩
  | rd10 d => obtain ⟨-, -, rfl⟩ := execRd10_eq_next.1 h; cases d <;> exact ⟨rfl, rfl, rfl, rfl⟩
  | rd8 => obtain ⟨-, -, rfl⟩ := execRd8_eq_next.1 h; exact ⟨rfl, rfl, rfl, rfl⟩
  | sin8 => obtain ⟨-, rfl⟩ := execSin8_eq_next.1 h; exact ⟨rfl, rfl, rfl, rfl⟩
  | usin8 => obtain ⟨-, rfl⟩ := execUsin8_eq_next.1 h; exact ⟨rfl, rfl, rfl, rfl⟩
  | pwcalc => obtain ⟨_, _, _, -, -, -, -, rfl⟩ := execPwcalc_eq_next.1 h; exact ⟨rfl, rfl, rfl, rfl⟩
  | phadv => obtain ⟨_, -, -, rfl⟩ := execPhadv_eq_next.1 h; exact ⟨rfl, rfl, rfl, rfl⟩
  | pulse => obtain ⟨_, -, -, -, rfl⟩ | ⟨-, rfl⟩ | ⟨-, -, rfl⟩ := execPulse_eq_next.1 h <;> exact ⟨rfl, rfl, rfl, rfl⟩
  | loop => obtain rfl := execLoop_eq_next.1 h; exact ⟨rfl, rfl, rfl, rfl⟩

end Sys2Proof.Machine
end

