-- ==== Sys2Proof/Laws/PerInstr.lean ====
section
/-! SUPPORT. Statements about micro-operations as syntax, one lemma per constructor. -/

namespace Sys2Proof.Laws.OpRow

/-- The word of a micro-operation is accepted by the row of its mnemonic in the match and mask table of R68, and by no other
row. -/
def Statement (i : Instr) : Prop :=
  (opRows.filter fun r => r.accepts (encode i)).map Sys2Proof.OpRow.mnemonic = [i.mnemonic]

theorem sel (ch : Channel) : Statement (.sel ch) := by revert ch; unfold Statement; decide
theorem conv : Statement .conv := by unfold Statement; decide
theorem dly : Statement .dly := by unfold Statement; decide
theorem wait : Statement .wait := by unfold Statement; decide
theorem rd10 (d : Dest10) : Statement (.rd10 d) := by cases d <;> (unfold Statement; decide)
theorem rd8 : Statement .rd8 := by unfold Statement; decide
theorem sin8 : Statement .sin8 := by unfold Statement; decide
theorem usin8 : Statement .usin8 := by unfold Statement; decide
theorem pwcalc : Statement .pwcalc := by unfold Statement; decide
theorem phadv : Statement .phadv := by unfold Statement; decide
theorem pulse : Statement .pulse := by unfold Statement; decide
theorem loop : Statement .loop := by unfold Statement; decide

end Sys2Proof.Laws.OpRow
end

