-- ==== Sys2Proof/Laws/Step.lean ====
section
/-! SUPPORT. What a step can do, once, and how runs compose. -/

namespace Sys2Proof.Machine

/-- A step that answers a next state is the reset input's, or it runs the micro-operation at SEQ after the environment's
move. -/
theorem step_cases {s t : State} (h : step s = .next t) :
    (∃ e, s.nextMove = .reset e ∧ t = resetCore e s.takeMove) ∨
    ∃ f i, s.nextMove = .run f ∧ fetch s = .next i ∧ exec i (envFinish f s.takeMove) = .next t := by
  unfold step at h
  cases hm : s.nextMove with
  | reset e =>
    simp only [hm, Host.Outcome.next.injEq] at h
    exact .inl ⟨e, rfl, h.symm⟩
  | run f =>
    simp only [hm, fetch_afterMove, andThen_eq_next] at h
    obtain ⟨i, hi, hx⟩ := h
    exact .inr ⟨f, i, rfl, hi, hx⟩

/-- A step without reset, when the micro-operation at SEQ is known. -/
theorem step_run {s : State} {f : Finish} {i : Instr} (hm : s.nextMove = .run f) (hi : fetch s = .next i) :
    step s = exec i (envFinish f s.takeMove) := by
  simp [step, hm, hi]

theorem step_reset {s : State} {e : Env} (hm : s.nextMove = .reset e) : step s = .next (resetCore e s.takeMove) := by
  simp [step, hm]

/-- In every clock without reset `pul_line` is PULSE_LINE, whatever the step did (20_memory.md R53). -/
theorem portsOfStep_pulLine {s : State} {f : Finish} (hm : s.nextMove = .run f) (t : State) :
    (portsOfStep s t).pulLine = s.params.pulseLine := by
  have h : ∀ e, (PortsOut.ofEvent s.params e).pulLine = s.params.pulseLine := by intro e; cases e <;> rfl
  simp only [portsOfStep, hm]
  split
  · exact h _
  · rfl

/-- A step that leaves the trace makes no call and raises no strobe. -/
theorem strobesOfStep_of_trace_eq {s t : State} (h : t.trace = s.trace) : strobesOfStep s t = 0 := by
  simp [strobesOfStep, callsOfStep, h]

/-- A step that appends one event raises the strobes of that event. -/
theorem strobesOfStep_of_trace_append {s t : State} {e : Event} (h : t.trace = s.trace ++ [e]) :
    strobesOfStep s t = (PortsOut.ofEvent s.params e).strobes := by
  simp [strobesOfStep, callsOfStep, h]

@[simp] theorem steps_zero (s : State) : steps 0 s = .next s := rfl

theorem steps_succ (n : Nat) (s : State) : steps (n + 1) s = andThen (step s) (steps n) := rfl

/-- Runs compose. -/
theorem steps_add (m n : Nat) (s : State) : steps (m + n) s = andThen (steps m s) (steps n) := by
  induction m generalizing s with
  | zero => simp
  | succ m ih =>
    rw [Nat.succ_add, steps_succ, steps_succ]
    cases h : step s with
    | next t => simpa using ih t
    | fault f => cases f
    | refused r => rfl

/-- The next move is the head of the script, and a script without a reset gives no reset. -/
theorem nextMove_run {s : State} (h : NoReset s.moves) : ∃ f, s.nextMove = .run f := by
  unfold State.nextMove
  cases hm : s.moves with
  | nil => exact ⟨_, rfl⟩
  | cons m ms =>
    cases m with
    | run f => exact ⟨f, rfl⟩
    | reset e => exact absurd (h (.reset e) (by simp [hm])) (by simp [EnvMove.isReset])

theorem noReset_tail {ms : List EnvMove} (h : NoReset ms) : NoReset ms.tail := fun m hm => h m (List.mem_of_mem_tail hm)

end Sys2Proof.Machine
end

