-- ==== Sys2Proof/Tests/Slice0.lean ====
section
/-! SUPPORT. Tests whose expected results are the spec's own (95_test_vectors.md and the worked examples of the rules), the
smoke tests of WellFormed, and the witnesses that meet the hypotheses of each obligation. -/

namespace Sys2Proof.Tests
open Sys2Proof Sys2Proof.Machine

/-! ## Helpers -/

/-- The state after reset of a machine with parameters `p`, about to run its reference sequence. -/
def start (p : Params) : State := { State.reset with params := p, uop := referenceWords p }

/-- The same under instantiation P0 (R8). -/
def s0 : State := start Params.p0

/-- A machine that runs the words `ws` and whose environment finishes nothing in the next three steps. -/
def running (ws : List Byte) (s : State) : State :=
  { s with uop := ws, moves := List.replicate 3 (.run { conv := false, delay := false, pulse := false }) }

/-- One field of the state an operation answers. -/
def after (o : Res State) (f : State → α) : Option α :=
  match o with
  | .next t => some (f t)
  | .fault _ => none
  | .refused _ => none

/-- The reason for which an operation is refused. -/
def reason (o : Res State) : Option Refusal :=
  match o with
  | .next _ => none
  | .fault _ => none
  | .refused r => some r

/-- An environment in the middle of things: channel 1, a conversion in state `c`, all lines low. -/
def envAt (c : Conv) : Env := { Env.atReset with ch := some 1, conv := c }

/-! ## Decoding: the words of V7, written out (30_encoding.md R67, 95_test_vectors.md V7) -/

theorem test_decode_sel : decodeWord 0b00000000 = .ok (.sel 0) ∧ decodeWord 0b00000011 = .ok (.sel 3) := by decide
theorem test_decode_conv : decodeWord 0b00010000 = .ok .conv := by decide
theorem test_decode_dly : decodeWord 0b00100000 = .ok .dly := by decide
theorem test_decode_wait : decodeWord 0b00110000 = .ok .wait := by decide
theorem test_decode_rd10 : decodeWord 0b01000000 = .ok (.rd10 .offset) ∧ decodeWord 0b01000001 = .ok (.rd10 .speed) := by
  decide
theorem test_decode_rd8 : decodeWord 0b01010000 = .ok .rd8 := by decide
theorem test_decode_sin8 : decodeWord 0b01100000 = .ok .sin8 := by decide
theorem test_decode_usin8 : decodeWord 0b01100001 = .ok .usin8 := by decide
theorem test_decode_pwcalc : decodeWord 0b01110000 = .ok .pwcalc := by decide
theorem test_decode_phadv : decodeWord 0b10000000 = .ok .phadv := by decide
theorem test_decode_pulse : decodeWord 0b10010000 = .ok .pulse := by decide
theorem test_decode_loop : decodeWord 0b10100000 = .ok .loop := by decide

/-- V7: the illegal words, by reason. -/
theorem test_decode_illegal :
    ([0x04, 0x0F, 0x11, 0x28, 0x3F, 0x42, 0x51, 0x62, 0xA1].all fun w => decodeWord w == .error .argumentBits) = true ∧
    ([0xB0, 0xF0, 0xFF].all fun w => decodeWord w == .error .unassignedOp) = true := by decide

/-- V7, R71: 16 legal words, 240 illegal. -/
theorem test_decode_count : ((List.range 256).countP fun n => legalWord (BitVec.ofNat 8 n)) = 16 := by decide +kernel

/-- R146: the bytes of the reference sequence under P0. -/
theorem test_reference_bytes : referenceWords Params.p0 =
    [0x01, 0x10, 0x20, 0x30, 0x40, 0x02, 0x10, 0x20, 0x30, 0x41] ++
    [0x03, 0x10, 0x20, 0x30, 0x50, 0x60, 0x70, 0x80, 0x90, 0xA0] := by decide

/-- PRG4: an assembler listing and its bytes. -/
theorem test_assemble_prg4 :
    encodeAll (assemble [.sample10 1 .offset, .sample8 3, .op .sin8, .op .pwcalc, .op .pulse, .op .loop]) =
    [0x01, 0x10, 0x20, 0x30, 0x40, 0x03, 0x10, 0x20, 0x30, 0x50, 0x60, 0x70, 0x90, 0xA0] := by decide

/-- The host's numbering: one word of 8 bits, bit 0 its least significant; a longer number is no word. -/
theorem test_decodeTableWord : decodeTableWord 8 0x41 = some (.rd10 .speed) ∧ decodeTableWord 8 0x42 = none ∧
    decodeTableWord 16 0x0141 = none := by decide

/-! ## WellFormed: what each check refuses (44_emit_sequencer.md R150, 00_scope.md R8) -/

theorem test_wf_empty : lengthOk [] = false := by decide
theorem test_wf_33_entries : lengthOk (List.replicate 33 .loop) = false ∧ lengthOk (List.replicate 32 .loop) = true := by
  decide
theorem test_wf_no_loop : endsInLoop [.sin8, .sin8] = false ∧ endsInLoop [.sin8, .loop] = true := by decide
theorem test_wf_channels : { Params.p0 with chSpeed := 1 }.channelsDistinct = false ∧
    Params.p0.channelsDistinct = true := by decide
theorem test_load_refuses : reason (load [0x60, 0x60] s0) = some .sequenceNotAdmitted ∧
    reason (load [0x62, 0xA0] s0) = some .illegalUop := by decide

/-- R8: whichever of the 24 assignments is built, the channels are pairwise distinct, and no two assignments agree. -/
theorem test_channelTriple :
    ((List.finRange 24).all fun k => let t := Config.channelTriple k; t.1 != t.2.1 && t.1 != t.2.2 && t.2.1 != t.2.2) = true ∧
    ((List.finRange 24).map Config.channelTriple).Nodup := by decide +kernel

/-! ## One instruction each -/

/-- R100's worked example: word 0x02 with channel 1 selected and the conversion done. -/
theorem test_sel : after (exec (.sel 2) { s0 with env := envAt .done }) (fun t => (t.env.ch, t.trace, t.seq)) =
    some (some 2, [.sel 2], 1) := by decide
/-- V8: `SEL 1; CONV; SEL 2` is refused at its third step. -/
theorem test_sel_busy : reason (exec (.sel 2) { s0 with env := envAt .busy }) = some .selectWhileBusy := by decide
/-- R101's worked example. -/
theorem test_conv : after (exec .conv { s0 with env := envAt .idle }) (fun t => (t.env.conv, t.trace)) =
    some (.busy, [.start]) := by decide
/-- V8: `CONV` first, and `CONV; CONV`. -/
theorem test_conv_refused : reason (exec .conv s0) = some .beginWithoutChannel ∧
    reason (exec .conv { s0 with env := envAt .busy }) = some .beginWhileBusy := by decide
/-- PRG1 step 2: the call, with P0's 6000 us. -/
theorem test_dly_call : after (exec .dly s0) (fun t => (t.trace, t.seq, t.hold)) = some ([.sleep 6000], 0, .sleeping) := by
  decide
/-- R54: complete when `dly_done` is seen. -/
theorem test_dly_done : after (exec .dly { s0 with hold := .slept, seq := 2 }) (fun t => (t.trace, t.seq, t.hold)) =
    some ([], 3, .none) := by decide
/-- R103, R49: `Ready` once, when it passes. -/
theorem test_wait : after (exec .wait { s0 with env := envAt .done, seq := 3 }) (fun t => (t.trace, t.seq)) =
    some ([.ready], 4) := by decide
/-- PRG5: held while busy. V8: refused with no conversion started. -/
theorem test_wait_held : after (exec .wait { s0 with env := envAt .busy, seq := 8 }) (fun t => (t.trace, t.seq)) =
    some ([], 8) ∧ reason (exec .wait s0) = some .readyWithoutConversion := by decide
/-- PRG1 step 9: the destination is SPEED, and OFFSET keeps its sample. -/
theorem test_rd10_speed :
    after (exec (.rd10 .speed) { s0 with env := envAt .done, offset := some 512, answers10 := [1023] })
      (fun t => (t.offset, t.speed, t.trace, t.env.conv)) = some (some 512, some 1023, [.read10 1023], .done) := by decide
/-- V8, second and third row. -/
theorem test_rd10_not_ready : reason (exec (.rd10 .offset) { s0 with env := envAt .busy }) = some .readBeforeReady ∧
    reason (exec (.rd10 .offset) { s0 with env := envAt .idle }) = some .readBeforeReady := by decide
/-- PRG1 step 14. -/
theorem test_rd8 : after (exec .rd8 { s0 with env := envAt .done, answers8 := [255] }) (fun t => (t.ampl, t.trace)) =
    some (some 255, [.read8 255]) := by decide
/-- PRG2, iteration 15: PHASE 0xDFC8 is angle 223 and gives 0x9E. -/
theorem test_sin8 : after (exec .sin8 { s0 with phase := 0xDFC8 }) State.sine = some (some 0x9E) := by decide
/-- R183: angle 0 gives 0xFF, not 0 (90_conflicts.md C2), and PHASE is only read. -/
theorem test_sin8_zero : after (exec .sin8 s0) (fun t => (t.sine, t.phase)) = some (some 0xFF, 0) := by decide
/-- PRG3, pass 5: PHASE 0x8000. R89's worked example: angle 0xA0. -/
theorem test_usin8 : after (exec .usin8 { s0 with phase := 0x8000 }) State.sine = some (some 0x80) ∧
    after (exec .usin8 { s0 with phase := 0xA000 }) State.sine = some (some 0x20) := by decide
/-- V4: the floor of a negative product, SINE = -1 with AMPL = 65 and 64. -/
theorem test_pwcalc_floor :
    after (exec .pwcalc { s0 with offset := some 512, ampl := some 65, sine := some 0xFF }) State.pw = some (some 1498) ∧
    after (exec .pwcalc { s0 with offset := some 512, ampl := some 64, sine := some 0xFF }) State.pw = some (some 1499) := by
  decide
/-- V4: the wrap at PW_CENTER 1500, offset 0; R120's worked example, 2066. -/
theorem test_pwcalc_wrap :
    after (exec .pwcalc { s0 with offset := some 0, ampl := some 255, sine := some 0x80 }) State.pw = some (some 65502) ∧
    after (exec .pwcalc { s0 with offset := some 700, ampl := some 128, sine := some 0x5F }) State.pw = some (some 2066) := by
  decide
/-- V5: the wrap through 0. -/
theorem test_phadv_wrap : after (exec .phadv { s0 with phase := 0xF800, speed := some 1023 }) State.phase = some 0x07FC := by
  decide
/-- V5: PHASE 0xFFFF, a phase with low bits set, and V8: SPEED unwritten. -/
theorem test_phadv_low_bits : after (exec .phadv { s0 with phase := 0xFFFF, speed := some 1 }) State.phase = some 0x0003 ∧
    reason (exec .phadv s0) = some .unwrittenRegister := by decide
/-- V6, R140: the call, the line high while it is held. R142: width 0 makes the call all the same. -/
theorem test_pulse_call : after (exec .pulse { s0 with seq := 18, pw := some 2006 })
    (fun t => (t.trace, t.seq, t.env.level 0, t.pw)) = some ([.pulse 0 2006], 18, true, some 2006) ∧
    after (exec .pulse { s0 with seq := 18, pw := some 0 }) (fun t => (t.trace, t.seq, t.hold)) =
      some ([.pulse 0 0], 18, .pulsing) := by decide
/-- V6: SEQ 19 when it is complete. V8: PW unwritten. R46: the line high. -/
theorem test_pulse_done : after (exec .pulse { s0 with seq := 18, hold := .pulsed, pw := some 0 }) (fun t => (t.seq, t.pw)) =
    some (19, some 0) ∧ reason (exec .pulse s0) = some .unwrittenRegister ∧
    reason (exec .pulse { s0 with env := Env.atReset.drive 0 true, pw := some 1500 }) = some .pulseWhileHigh := by decide
/-- V6: all registers kept. -/
theorem test_loop : after (exec .loop { s0 with seq := 19, phase := 0x0FFC, pw := some 1496 })
    (fun t => (t.seq, t.phase, t.pw, t.trace)) = some (0, 0x0FFC, some 1496, []) := by decide

/-! ## The square, pass by pass (V1) -/

/-- V1: {A, Q} after four and eight passes, and the result, for x = 0x2A. -/
theorem test_sq8b_passes :
    (let r := Scratch.passes 4 (Scratch.start 0x2A); (r.a, r.q, r.m)) = (0x20, 0x45, 0x56) ∧
    (let r := Scratch.passes 8 (Scratch.start 0x2A); (r.a, r.q, r.c)) = (0x1C, 0xE4, false) ∧ sq8b 0x2A = 0xC6 := by decide
/-- V1: the largest product, the row that tells the signed from the unsigned square, the plateau's edge. -/
theorem test_sq8m : sq8m 0x00 = 127 ∧ sq8m 0x01 = 129 ∧ sq8m 0x74 = 254 ∧ sq8m 0x75 = 255 := by decide
/-- R84: the carry out of an 8-bit sum. -/
theorem test_addWithCarryOut : addWithCarryOut 0xF0 0x20 = (true, 0x10) := by decide

/-! ## The step -/

/-- V8, last row: `SIN8; SIN8` finds no word at its third step. -/
theorem test_step_past_end : reason (step (running [0x60, 0x60] { s0 with seq := 2 })) = some .seqPastEnd := by decide
/-- R71: a sequence with an illegal word does not run, although the word at SEQ is legal. -/
theorem test_step_illegal : reason (step (running [0x60, 0x62, 0xA0] s0)) = some .illegalUop := by decide
/-- R180: reset ends a held PULSE; R182: ENV is the environment's. -/
theorem test_step_reset :
    after (step { s0 with phase := 0x4000, seq := 18, hold := .pulsing, pw := some 7, moves := [.reset (envAt .busy)] })
      (fun t => (t.phase, t.seq, t.hold, t.pw, t.env.conv)) = some (0, 0, .none, none, .busy) := by decide
/-- R103, R171: the conversion the environment finishes now lets the held WAIT pass in the same step. -/
theorem test_step_wait_passes :
    after (step { running [0x30, 0xA0] s0 with env := envAt .busy, moves := [finishAll] }) (fun t => (t.seq, t.env.conv)) =
      some (1, .done) := by decide
/-- R141: the line is low again in the step in which the held PULSE completes. -/
theorem test_step_pulse_completes :
    after (step { running [0x90, 0xA0] s0 with env := (envAt .done).drive 0 true, hold := .pulsing, moves := [finishAll] })
      (fun t => (t.seq, t.hold, t.env.level 0)) = some (1, .none, false) := by decide

/-- The host's placing of a word: it is what the next step runs, from reset. -/
theorem test_withFetchWord_sin8 : after (step (State.reset.withFetchWord 8 0x60)) State.seq = some 1 := by decide
theorem test_withFetchWord_conv : reason (step (State.reset.withFetchWord 8 0x10)) = some .beginWithoutChannel := by decide
theorem test_withFetchWord_illegal : reason (step (State.reset.withFetchWord 8 0xB0)) = some .illegalUop := by decide

/-- R53: a `sleep_microseconds` raises its own strobe, and `pul_line` is PULSE_LINE in every clock but a reset's (R54). -/
theorem test_ports : PortsOut.ofEvent { Params.p0 with pulseLine := 5 } (.sleep 6000) =
    { PortsOut.quiet with dlyReq := true, dlyUs := 6000, pulLine := 5 } ∧
    (portsOfStep { running [0x60, 0xA0] s0 with params := { Params.p0 with pulseLine := 5 } } s0).pulLine = 5 ∧
    portsOfStep { s0 with params := { Params.p0 with pulseLine := 5 }, moves := [.reset (envAt .busy)] } s0 =
      PortsOut.quiet := by decide
/-- R53: what an input clock is to the machine. -/
theorem test_ports_in :
    after (step ((running [0x41, 0xA0] { s0 with env := envAt .busy }).withPorts
      { rst := false, adcReady := true, adcD10 := 700, adcD8 := 1, dlyDone := false, pulDone := false } Env.atReset))
      State.speed = some (some 700) := by decide

/-! ## Witnesses: concrete states and operands that meet the hypotheses of each obligation -/

/-- An environment move that finishes nothing. -/
def idleMove : EnvMove := .run { conv := false, delay := false, pulse := false }

/-- A machine at an iteration boundary whose environment is prompt and answers 512, 1023, 255 (PRG1). -/
def prompt (p : Params) : State :=
  { start p with moves := List.replicate 24 finishAll, answers10 := [512, 1023], answers8 := [255] }

/-- P1 with a safe range that just fits (R125). -/
def pSafe : Params := { Params.p1 with pwSafeMin := 514, pwSafeMax := 3576 }

/-- Where the prompt iteration of PRG1 ends. -/
def promptEnd (p : Params) : State :=
  { start p with
    phase := 0x0FFC, offset := some 512, speed := some 1023, ampl := some 255, sine := some 0xFF
    pw := some (p.pwCenter - 4), env := { Env.atReset with ch := some p.chAmpl, conv := .done }
    trace := iterationEvents p 512 1023 255 (p.pwCenter - 4), reads := 3, ticks := 24 }

theorem witness_SequenceRoundTrip : decodeAll [0x03, 0x41, 0xA0] = .ok [.sel 3, .rd10 .speed, .loop] := by decide

theorem witness_DecoderAgreesWithMatchMask : decodeWord 0x61 = .ok .usin8 ∧ ∃ e, decodeWord 0x62 = .error e :=
  ⟨by decide, .argumentBits, by decide⟩

theorem witness_SelSelectsChannel : ({ s0 with seq := 30 }.env.conv ≠ .busy ∧ { s0 with seq := 30 }.seq ≠ 31) ∧
    { s0 with env := envAt .busy }.env.conv = .busy := by decide

theorem witness_ConvStartsConversion :
    ({ s0 with env := envAt .done }.env.ch ≠ none ∧ { s0 with env := envAt .done }.env.conv ≠ .busy ∧ s0.seq ≠ 31) ∧
    s0.env.ch = none ∧ ({ s0 with env := envAt .busy }.env.ch ≠ none ∧ { s0 with env := envAt .busy }.env.conv = .busy) := by
  decide

theorem witness_DlySleepsThenAdvances : s0.hold = .none ∧ { s0 with hold := .sleeping }.hold = .sleeping ∧
    ({ s0 with hold := .slept, seq := 30 }.hold = .slept ∧ { s0 with hold := .slept, seq := 30 }.seq ≠ 31) := by decide

theorem witness_WaitPassesOnlyWhenDone :
    ({ s0 with env := envAt .done, seq := 30 }.env.conv = .done ∧ { s0 with env := envAt .done, seq := 30 }.seq ≠ 31) ∧
    { s0 with env := envAt .busy }.env.conv = .busy ∧ s0.env.conv = .idle := by decide

theorem witness_Rd10StoresTheAnswer : { s0 with answers10 := [1023] }.answer10 = 1023 ∧
    ({ s0 with env := envAt .done }.env.conv = .done ∧ s0.seq ≠ 31) ∧ { s0 with env := envAt .busy }.env.conv ≠ .done ∧
    s0.env.conv ≠ .done := by decide

theorem witness_Rd8StoresTheAnswer : { s0 with answers8 := [0] }.answer8 = 0 ∧
    ({ s0 with env := envAt .done }.env.conv = .done ∧ s0.seq ≠ 31) ∧ { s0 with env := envAt .busy }.env.conv ≠ .done := by
  decide

theorem witness_Sin8WritesSignedSine : { s0 with phase := 0xFFFF, seq := 30 }.seq ≠ 31 := by decide

theorem witness_Usin8WritesUnsignedSine : { s0 with phase := 0x7FFF, seq := 0 }.seq ≠ 31 := by decide

theorem witness_PwcalcWritesPulseWidth :
    let s := { s0 with offset := some 0, sine := some 0x80, ampl := some 255 }
    s.offset = some 0 ∧ s.sine = some 0x80 ∧ s.ampl = some 255 ∧ s.seq ≠ 31 ∧ s0.offset = none := by decide

theorem witness_PhadvAdvancesPhase : { s0 with speed := some 1023 }.speed = some 1023 ∧ s0.seq ≠ 31 ∧
    s0.speed = none := by decide

theorem witness_PulseEmitsThenAdvances :
    (s0.hold = .none ∧ { s0 with pw := some 0 }.pw = some 0 ∧ { s0 with pw := some 0xFFFF }.pw = some 0xFFFF ∧ s0.env.level s0.params.pulseLine = false) ∧
    ({ s0 with hold := .pulsing, env := Env.atReset.drive 0 true }.hold = .pulsing ∧
      { s0 with hold := .pulsing, env := Env.atReset.drive 0 true }.env.level s0.params.pulseLine = true) ∧ s0.pw = none ∧
    ({ s0 with hold := .pulsed, seq := 30 }.hold = .pulsed ∧ { s0 with hold := .pulsed, seq := 30 }.seq ≠ 31) := by decide

theorem witness_UnwrittenRegisterRefused : s0.hold = .none := by decide

/-- The first clause at the boundary (length 3, SEQ 3), the second for WAIT, the third for SIN8. -/
theorem witness_SeqNeverPassesTheEnd :
    (let s := { s0 with uop := [0x60, 0x80, 0xA0], seq := 3, moves := [idleMove] }
     s.nextMove = idleMove ∧ (∀ w ∈ s.uop, legalWord w = true) ∧ s.uop.length ≤ s.seq.toNat) ∧
    (after (exec .wait { s0 with env := envAt .done, seq := 30 }) fun t => (t.seq != 30)) = some true ∧
    (after (exec .sin8 { s0 with seq := 0 }) fun t => (t.seq != 0)) = some true := by decide

theorem witness_IllegalSequenceRefused :
    let s := { s0 with uop := [0x60, 0xA0, 0x62], moves := [idleMove] }
    s.nextMove = idleMove ∧ 0x62 ∈ s.uop ∧ legalWord 0x62 = false := by decide

theorem witness_LoadAdmitsExactlyR150 : (after (load [0x61, 0x80, 0xA0] s0) State.uop) = some [0x61, 0x80, 0xA0] ∧
    (∃ w ∈ [(0xA0 : Byte), 0xA1], legalWord w = false) := ⟨by decide, 0xA1, by decide, by decide⟩

theorem witness_StepRunsTheDecodedWord :
    let s := { s0 with moves := [finishAll] }
    s.nextMove = finishAll ∧ (∀ x ∈ s.uop, legalWord x = true) ∧ s.uop[s.seq.toNat]? = some 0x01 ∧
      decodeWord 0x01 = .ok (.sel 1) := by decide

theorem witness_ResetOverridesEverything : { s0 with hold := .pulsing, moves := [.reset (envAt .busy)] }.nextMove =
    .reset (envAt .busy) := by decide

theorem witness_StrayStrobeHasNoEffect : s0.env.conv ≠ .busy ∧ s0.hold ≠ .sleeping ∧ s0.hold ≠ .pulsing ∧
    s0.env.level s0.params.pulseLine = false := by decide

/-- A step without reset that changes a register, for the frames over the machine. -/
theorem witness_OnlyTheListedWriterChangesARegister :
    let s := { s0 with uop := [0x60, 0xA0], moves := [idleMove] }
    s.nextMove = idleMove ∧ (after (step s) fun t => (t.reg .sine, s.reg .sine)) = some (some 255, none) := by decide

theorem witness_ParametersAndSequenceAreReadOnly :
    (after (step { s0 with moves := [.reset (envAt .busy)] }) State.phase) = some 0 := by decide

theorem witness_TraceGrowsByTheFetchedCall :
    let s := { s0 with moves := [idleMove] }
    s.nextMove = idleMove ∧ (after (step s) State.trace) = some [.sel 1] := by decide

theorem witness_ControlTransfersAreR144 :
    let s := { s0 with uop := [0x30, 0xA0], env := envAt .busy, moves := [idleMove] }
    s.nextMove = idleMove ∧ (after (step s) State.seq) = some 0 := by decide

/-- A machine in the hold of a DLY that meets the machine's invariant. -/
def sleepingAtDly : State := { s0 with seq := 2, hold := .sleeping, env := envAt .busy, moves := [idleMove] }

theorem sleepingAtDly_inv : sleepingAtDly.Inv := by
  refine ⟨?_, by decide, by decide, ?_⟩
  · intro i hi
    obtain rfl : i = .dly := by simpa [sleepingAtDly, Hold.requestedBy, eq_comm] using hi
    decide
  · intro e he
    simp [sleepingAtDly, idleMove] at he

theorem witness_AtMostOneStrobePerStep : sleepingAtDly.Inv ∧ sleepingAtDly.hold ≠ .none ∧
    (after (step sleepingAtDly) fun t => (t.hold, strobesOfStep sleepingAtDly t)) = some (.sleeping, 0) ∧
    (after (step { s0 with moves := [idleMove] }) fun t => strobesOfStep s0 t) = some 1 :=
  ⟨sleepingAtDly_inv, by decide, by decide, by decide⟩

theorem witness_StepKeepsTheMachineInvariant : sleepingAtDly.Inv ∧ (after (step sleepingAtDly) State.seq) = some 2 :=
  ⟨sleepingAtDly_inv, by decide⟩

/-- In the hold of a pulse of width 0 the invariant is met by a line that rose and by one that did not. -/
theorem witness_inv_at_width_zero (v : Bool) :
    State.Inv { s0 with seq := 18, pw := some 0, hold := .pulsing, env := (envAt .done).drive 0 v, moves := [idleMove] } := by
  refine ⟨?_, fun _ => rfl, fun _ => .inr rfl, ?_⟩
  · intro i hi
    obtain rfl : i = .pulse := by simpa [Hold.requestedBy, eq_comm] using hi
    exact show s0.uop[18]? = some (encode .pulse) by decide
  · intro e he
    simp [idleMove] at he

theorem witness_ReferenceSequenceIsNeverRefused : sleepingAtDly.RefInv := by
  refine ⟨sleepingAtDly_inv, rfl, ?_, ?_, ?_, ?_, ?_, ?_, ?_, ?_⟩ <;>
    simp [sleepingAtDly, Config.seqLen, convAtStep, channelAtStep, envAt, s0, start, Params.p0]

theorem witness_StepKeepsPhaseAligned :
    let s := { s0 with uop := [0x80, 0xA0], phase := 0xFFFC, speed := some 1, moves := [idleMove] }
    s.phase.toNat % 2 ^ min s.params.speedShift 16 = 0 ∧ (after (step s) State.phase) = some 0 ∧ s.params.speedShift = 2 := by
  decide

theorem witness_BitOnlySquareIsTheSquare : (8 : Nat) ≤ 8 ∧ (0 : Nat) ≤ 8 := by decide

/-- |s| = 11 at x = 0x8B, the edge of the plateau, and |s| = 12 beside it. -/
theorem witness_SquareClosedForm : ((0x8B : BitVec 8) ^^^ 0x80).toInt.natAbs ≤ 11 ∧
    ((0x8B : BitVec 8) ^^^ 0x80).toInt.natAbs ≤ ((0x8C : BitVec 8) ^^^ 0x80).toInt.natAbs := by decide

theorem witness_SignedSineLaws : (1 ≤ (127 : Angle).toNat ∧ (127 : Angle).toNat ≤ 127) ∧ 129 ≤ (129 : Angle).toNat ∧
    ((255 : Angle) ≠ 0 ∧ (255 : Angle) ≠ 128) := by decide

theorem witness_PulseSumRange : Params.p0.ReferenceGains ∧ (512 : Sample10) = 512 ∧ (0 : Sample8) = 0 ∧
    (187 ≤ (197 : Angle).toNat ∧ (197 : Angle).toNat ≤ 197) ∧ (59 ≤ (59 : Angle).toNat ∧ (59 : Angle).toNat ≤ 69) := by decide

theorem witness_NoWrapExactlyInCentreRange : Params.p0.ReferenceGains ∧ Params.p0.pwCenter = 1500 ∧
    (187 ≤ (187 : Angle).toNat ∧ (197 : Angle).toNat ≤ 197) := by decide

theorem witness_SafeExactlyWhenRangeFits :
    ({ Params.p0 with pwCenter := 1534 }.ReferenceGains ∧ 1534 ≤ { Params.p0 with pwCenter := 1534 }.pwCenter.toNat) ∧
    { Params.p0 with pwCenter := 64007 }.pwCenter.toNat ≤ 64007 := by decide

theorem witness_SourcePulseProperties : Params.p0.ReferenceGains ∧ 510 ≤ Params.p0.pwCenter.toNat ∧
    Params.p0.pwCenter.toNat ≤ 65029 := by decide

theorem witness_SpeedSetsThePeriod : Params.p0.ReferenceGains ∧ 64 ≤ (64 : Sample10).toNat := by decide

theorem prompt_noReset : NoReset (List.replicate 24 finishAll) := by unfold NoReset; decide

theorem prompt_atBoundary_p0 : (prompt Params.p0).AtBoundary :=
  ⟨rfl, rfl, rfl, ⟨by decide, by decide⟩, prompt_noReset⟩

theorem prompt_atBoundary_safe : (prompt pSafe).AtBoundary :=
  ⟨rfl, rfl, rfl, ⟨by decide, by decide⟩, prompt_noReset⟩

theorem next_of_after {o : Res State} {t : State} (h : after o id = some t) : o = .next t := by
  cases o <;> simp_all [after]

/-- A run whose steps are all known to leave step 0 returns first where it ends. -/
theorem firstReturn_of {n : Nat} {s t : State} (h0 : 0 < n) (hs : steps n s = .next t) (ht : t.seq = 0)
    (hm : ∀ m : Fin n, 0 < m.val → after (steps m.val s) State.seq ≠ some 0) : FirstReturn n s t := by
  refine ⟨h0, hs, ht, ?_⟩
  intro m u hm0 hmn hu hz
  exact hm ⟨m, hmn⟩ hm0 (by simp [hu, after, hz])

theorem prompt_returns_p0 : FirstReturn 24 (prompt Params.p0) (promptEnd Params.p0) :=
  firstReturn_of (by decide) (next_of_after (by decide +kernel)) (by decide) (by decide +kernel)

theorem prompt_returns_safe : FirstReturn 24 (prompt pSafe) (promptEnd pSafe) :=
  firstReturn_of (by decide) (next_of_after (by decide +kernel)) (by decide) (by decide +kernel)

theorem witness_IterationIsR148 : (prompt Params.p0).AtBoundary ∧ (prompt Params.p0).params.ReferenceGains ∧
    FirstReturn 24 (prompt Params.p0) (promptEnd Params.p0) := ⟨prompt_atBoundary_p0, by decide, prompt_returns_p0⟩

theorem witness_PromptIterationInTwentyFourSteps : (prompt Params.p0).AtBoundary ∧
    (prompt Params.p0).moves = List.replicate 24 finishAll ++ [] ∧ (prompt Params.p0).answers10 = [512, 1023] ∧
    (prompt Params.p0).answers8 = [255] := ⟨prompt_atBoundary_p0, by decide, by decide, by decide⟩

theorem witness_FairEnvironmentCompletesIterations : (prompt Params.p0).AtBoundary ∧
    (prompt Params.p0).moves = List.replicate 24 finishAll ++ [] ∧ 24 ≤ (List.replicate 24 finishAll).count finishAll :=
  ⟨prompt_atBoundary_p0, by decide, by decide⟩

/-- An environment that finishes each kind of operation by moves of its own, in turn, never two at once. -/
def inTurn (n : Nat) : EnvMove := .run { conv := n % 3 = 0, delay := n % 3 = 1, pulse := n % 3 = 2 }

theorem witness_EveryIterationCompletesUnderF1F2F3 : (prompt Params.p0).AtBoundary ∧ NeverResets inTurn ∧
    ConversionsComplete inTurn (prompt Params.p0) ∧ SleepsReturn inTurn (prompt Params.p0) ∧
    PulsesReturn inTurn (prompt Params.p0) := by
  refine ⟨prompt_atBoundary_p0, fun _ => rfl, fun n _ _ _ => ⟨3 * n, by omega, ?_⟩, fun n _ _ _ => ⟨3 * n + 1, by omega, ?_⟩,
    fun n _ _ _ => ⟨3 * n + 2, by omega, ?_⟩⟩ <;> simp [inTurn, EnvMove.finish]

/-- PRG5: the speed conversion that never completes. -/
theorem witness_HangHoldsForEver :
    let s := { s0 with seq := 8, env := envAt .busy, moves := [idleMove, idleMove] }
    (∀ w ∈ s.uop, legalWord w = true) ∧ s.uop[s.seq.toNat]? = some (encode .wait) ∧ s.env.conv = .busy ∧ s.hold = .none ∧
      s.env.level s.params.pulseLine = false ∧ s.moves = [idleMove, idleMove] ++ [] ∧
      ∀ m ∈ [idleMove, idleMove], m.leavesConversion = true := by decide

/-- The other admitted state of ENV: a finished conversion on the fourth channel. -/
theorem witness_OnlyPhaseCarriesOver : (prompt Params.p0).AtBoundary ∧
    { envAt .done with ch := some 0 }.ready (prompt Params.p0).params ∧
    steps 24 (prompt Params.p0) = .next (promptEnd Params.p0) :=
  ⟨prompt_atBoundary_p0, ⟨by decide, by decide⟩, prompt_returns_p0.2.1⟩

theorem witness_RunsFollowTheIterationFunction : (prompt Params.p0).AtBoundary ∧
    IteratesWith [{ offset := 512, speed := 1023, ampl := 255 }] (prompt Params.p0) (promptEnd Params.p0) :=
  ⟨prompt_atBoundary_p0, 24, promptEnd Params.p0, prompt_returns_p0, rfl, rfl, rfl, rfl⟩

/-- A state in which PHADV runs before and after PWCALC, and before and after PULSE. -/
theorem witness_PhadvCommutes :
    let s := { s0 with speed := some 1, offset := some 0, ampl := some 1, sine := some 0xFF, pw := some 9 }
    (after (andThen (exec .phadv s) (exec .pwcalc)) State.phase) = some 4 ∧
    (after (andThen (exec .pwcalc s) (exec .phadv)) State.phase) = some 4 ∧
    (after (andThen (exec .phadv s) (exec .pulse)) State.hold) = some .pulsing ∧
    (after (andThen (exec .pulse s) (exec .phadv)) State.hold) = some .pulsing := by decide

theorem witness_FirstPulseAfterReset : Params.p0.ReferenceGains ∧ NoReset (List.replicate 24 finishAll) ∧
    FirstReturn 24 { State.reset with
      params := Params.p0, uop := referenceWords Params.p0, moves := List.replicate 24 finishAll
      answers10 := [512, 1023], answers8 := [255] } (promptEnd Params.p0) := ⟨by decide, prompt_noReset, prompt_returns_p0⟩

theorem witness_SafeTraceStaysSafe : (prompt pSafe).AtBoundary ∧ (prompt pSafe).params.ReferenceGains ∧
    1534 ≤ pSafe.pwCenter.toNat ∧ pSafe.pwCenter.toNat ≤ 64007 ∧ pSafe.pwSafeMin ≤ pSafe.pwCenter.toNat - 1534 ∧
    pSafe.pwCenter.toNat + 1528 ≤ pSafe.pwSafeMax ∧ SafeTrace pSafe (prompt pSafe).trace ∧
    FirstReturn 24 (prompt pSafe) (promptEnd pSafe) := by
  refine ⟨prompt_atBoundary_safe, by decide, by decide, by decide, by decide, by decide, ?_, prompt_returns_safe⟩
  intro l w h
  simp [prompt, start, State.reset] at h

end Sys2Proof.Tests
end

section
/-! What the environment's move before a step can do to each part of the machine (60_exceptions.md R163, R171), and the
settlement of O22. -/

namespace Sys2Proof.Machine

/-- The environment's move changes the converter's state only by finishing a conversion in flight (R31, R171). -/
theorem conv_finish_ne {c : Conv} {f : Bool} (h : c.finish f ≠ c) : c = .busy ∧ c.finish f = .done ∧ f = true := by
  cases c with
  | idle | done => exact absurd rfl h
  | busy =>
    cases f with
    | false => exact absurd rfl h
    | true => exact ⟨rfl, rfl, rfl⟩

/-- The environment's move changes the outstanding request only by finishing the delay or the pulse it waits for (R163). -/
theorem hold_finish_ne {k : Hold} {f : Finish} (h : k.finish f ≠ k) :
    (k = .sleeping ∧ k.finish f = .slept ∧ f.delay = true) ∨ (k = .pulsing ∧ k.finish f = .pulsed ∧ f.pulse = true) := by
  cases k with
  | none | slept | pulsed => exact absurd rfl h
  | sleeping => cases hd : f.delay <;> simp_all [Hold.finish]
  | pulsing => cases hp : f.pulse <;> simp_all [Hold.finish]

/-- Finishing a pulse changes the level of no line but its own, and drives that one low (R46, R140). -/
theorem level_finishPulse_ne {l k : Line} {f : Bool} {e : Env} (h : (e.finishPulse l f).level k ≠ e.level k) :
    k = l ∧ (e.finishPulse l f).level k = false ∧ f = true := by
  obtain rfl : k = l := by_contra fun hk => h (level_finishPulse_other l k f e hk)
  cases f with
  | false => simp at h
  | true => simp

/-- The state after the environment's move is the old one but for ENV, the outstanding request, the script and the count. -/
theorem envFinish_takeMove_eq (f : Finish) (s : State) :
    envFinish f s.takeMove =
      { s with
        env := { s.env.finishPulse s.params.pulseLine f.pulse with conv := s.env.conv.finish f.conv }
        hold := s.hold.finish f, moves := s.moves.tail, ticks := s.ticks + 1 } := rfl

/-- In a sequence of legal words, fetching answers what the word at SEQ decodes to (R28, R68). -/
theorem fetch_of_decodeWord {s : State} {w : Byte} {i : Instr} (hl : ∀ x ∈ s.uop, legalWord x = true)
    (hw : s.uop[s.seq.toNat]? = some w) (hi : decodeWord w = .ok i) : fetch s = .next i :=
  fetch_eq_next.2 ⟨List.all_eq_true.2 hl, encode_of_decodeWord hi ▸ hw⟩

/-- Settles O22: the fetch answers what the word at SEQ decodes to, and the move changes each part as the lemmas above say. -/
theorem stepRunsTheDecodedWord : Obligations.StepRunsTheDecodedWord := by
  intro s f w i hm hl hw hi
  exact ⟨step_run hm (fetch_of_decodeWord hl hw hi), _, _, envFinish_takeMove_eq f s, rfl, conv_finish_ne, hold_finish_ne,
    fun _ => level_finishPulse_ne⟩

end Sys2Proof.Machine
end

section
/-! The state rules of 10_state.md: why each meaning is refused (R27, R28, R46), what it leaves of the registers, SEQ and the
outstanding request, and the settlements of O44, O19, O27, O43, O17 and O42. -/

namespace Sys2Proof.Machine

/-! ### When each meaning is refused, beside its `_eq_next` lemma in Laws/Meanings -/

theorem execSel_eq_refused {ch : Channel} {s : State} {r : Refusal} : execSel ch s = .refused r ↔
    (s.env.conv = .busy ∧ r = .selectWhileBusy) ∨ (s.env.conv ≠ .busy ∧ s.seq = 31 ∧ r = .seqPastEnd) := by
  simp [execSel, andThen_eq_refused, envSelect_eq_refused, envSelect_eq_next, advance_eq_refused, and_assoc]

theorem execConv_eq_refused {s : State} {r : Refusal} : execConv s = .refused r ↔
    ((s.env.ch = none ∧ r = .beginWithoutChannel) ∨ (s.env.ch ≠ none ∧ s.env.conv = .busy ∧ r = .beginWhileBusy)) ∨
    (s.env.ch ≠ none ∧ s.env.conv ≠ .busy ∧ s.seq = 31 ∧ r = .seqPastEnd) := by
  simp [execConv, andThen_eq_refused, envBegin_eq_refused, envBegin_eq_next, advance_eq_refused, and_assoc]

theorem execDly_eq_refused {s : State} {r : Refusal} :
    execDly s = .refused r ↔ s.hold = .slept ∧ s.seq = 31 ∧ r = .seqPastEnd := by
  unfold execDly
  cases h : s.hold <;> simp [advance_eq_refused]

theorem execWait_eq_refused {s : State} {r : Refusal} : execWait s = .refused r ↔
    (s.env.conv = .idle ∧ r = .readyWithoutConversion) ∨ (s.env.conv = .done ∧ s.seq = 31 ∧ r = .seqPastEnd) := by
  unfold execWait envReady
  cases h : s.env.conv <;> simp [advance_eq_refused, eq_comm (b := r)]

theorem execRd10_eq_refused {d : Dest10} {s : State} {r : Refusal} : execRd10 d s = .refused r ↔
    (s.env.conv ≠ .done ∧ r = .readBeforeReady) ∨ (s.env.conv = .done ∧ s.seq = 31 ∧ r = .seqPastEnd) := by
  cases d <;>
    simp [execRd10, andThen_eq_refused, envRead10_eq_refused, envRead10_eq_next, advance_eq_refused, and_assoc]

theorem execRd8_eq_refused {s : State} {r : Refusal} : execRd8 s = .refused r ↔
    (s.env.conv ≠ .done ∧ r = .readBeforeReady) ∨ (s.env.conv = .done ∧ s.seq = 31 ∧ r = .seqPastEnd) := by
  simp [execRd8, andThen_eq_refused, envRead8_eq_refused, envRead8_eq_next, advance_eq_refused, and_assoc]

theorem execSin8_eq_refused {s : State} {r : Refusal} : execSin8 s = .refused r ↔ s.seq = 31 ∧ r = .seqPastEnd := by
  simp [execSin8, advance_eq_refused]

theorem execUsin8_eq_refused {s : State} {r : Refusal} : execUsin8 s = .refused r ↔ s.seq = 31 ∧ r = .seqPastEnd := by
  simp [execUsin8, advance_eq_refused]

theorem execPwcalc_eq_refused {s : State} {r : Refusal} : execPwcalc s = .refused r ↔
    ((s.offset = none ∨ s.ampl = none ∨ s.sine = none) ∧ r = .unwrittenRegister) ∨
    (s.offset ≠ none ∧ s.ampl ≠ none ∧ s.sine ≠ none ∧ s.seq = 31 ∧ r = .seqPastEnd) := by
  cases ho : s.offset <;> cases ha : s.ampl <;> cases hv : s.sine <;>
    simp [execPwcalc, withValue_eq_refused, advance_eq_refused, ho, ha, hv]

theorem execPhadv_eq_refused {s : State} {r : Refusal} : execPhadv s = .refused r ↔
    (s.speed = none ∧ r = .unwrittenRegister) ∨ (s.speed ≠ none ∧ s.seq = 31 ∧ r = .seqPastEnd) := by
  cases hv : s.speed <;> simp [execPhadv, withValue_eq_refused, advance_eq_refused, hv]

/-- PULSE is refused at its call, for PW or for the line, or at its completion, for the end of the sequence. -/
theorem execPulse_eq_refused {s : State} {r : Refusal} : execPulse s = .refused r ↔
    (s.hold = .none ∧ s.pw = none ∧ r = .unwrittenRegister) ∨
    (s.hold = .none ∧ s.pw ≠ none ∧ s.env.level s.params.pulseLine = true ∧ r = .pulseWhileHigh) ∨
    (s.hold = .pulsed ∧ s.seq = 31 ∧ r = .seqPastEnd) := by
  unfold execPulse
  cases h : s.hold with
  | none => cases hw : s.pw <;> simp [withValue_eq_refused, envPulse_eq_refused]
  | sleeping | slept | pulsing | pulsed => simp [advance_eq_refused]

theorem execLoop_ne_refused {s : State} {r : Refusal} : execLoop s ≠ .refused r := by simp [execLoop]

/-- Settles O17: the refusals of the five meanings that read a data register, by their reason. -/
theorem unwrittenRegisterRefused : Obligations.UnwrittenRegisterRefused := by
  intro s
  refine ⟨?_, ?_, fun hh => ?_, ?_, ?_⟩
  · exact execPwcalc_eq_refused.trans (by simp)
  · exact execPhadv_eq_refused.trans (by simp)
  · exact execPulse_eq_refused.trans (by simp [hh])
  · exact fun h => absurd (execSin8_eq_refused.1 h).2 (by simp)
  · exact fun h => absurd (execUsin8_eq_refused.1 h).2 (by simp)

/-! ### What a meaning does to SEQ (R28, R144) -/

/-- A meaning that answers a next state is held at WAIT, DLY or PULSE, goes back to 0 at LOOP, or moves on from a step
below 31. -/
theorem exec_seq_cases {i : Instr} {s t : State} (h : exec i s = .next t) :
    ((i = .wait ∨ i = .dly ∨ i = .pulse) ∧ t.seq = s.seq) ∨ (i = .loop ∧ t.seq = 0) ∨
    (i ≠ .loop ∧ s.seq ≠ 31 ∧ t.seq = s.seq + 1) := by
  cases i with
  | sel ch => obtain ⟨-, hq, rfl⟩ := execSel_eq_next.1 h; exact .inr (.inr ⟨nofun, hq, rfl⟩)
  | conv => obtain ⟨-, -, hq, rfl⟩ := execConv_eq_next.1 h; exact .inr (.inr ⟨nofun, hq, rfl⟩)
  | dly =>
    obtain ⟨-, rfl⟩ | ⟨-, rfl⟩ | ⟨-, hq, rfl⟩ := execDly_eq_next.1 h
    · exact .inl ⟨.inr (.inl rfl), rfl⟩
    · exact .inl ⟨.inr (.inl rfl), rfl⟩
    · exact .inr (.inr ⟨nofun, hq, rfl⟩)
  | wait =>
    obtain ⟨-, hq, rfl⟩ | ⟨-, rfl⟩ := execWait_eq_next.1 h
    · exact .inr (.inr ⟨nofun, hq, rfl⟩)
    · exact .inl ⟨.inl rfl, rfl⟩
  | rd10 d => obtain ⟨-, hq, rfl⟩ := execRd10_eq_next.1 h; exact .inr (.inr ⟨nofun, hq, rfl⟩)
  | rd8 => obtain ⟨-, hq, rfl⟩ := execRd8_eq_next.1 h; exact .inr (.inr ⟨nofun, hq, rfl⟩)
  | sin8 => obtain ⟨hq, rfl⟩ := execSin8_eq_next.1 h; exact .inr (.inr ⟨nofun, hq, rfl⟩)
  | usin8 => obtain ⟨hq, rfl⟩ := execUsin8_eq_next.1 h; exact .inr (.inr ⟨nofun, hq, rfl⟩)
  | pwcalc => obtain ⟨_, _, _, -, -, -, hq, rfl⟩ := execPwcalc_eq_next.1 h; exact .inr (.inr ⟨nofun, hq, rfl⟩)
  | phadv => obtain ⟨_, -, hq, rfl⟩ := execPhadv_eq_next.1 h; exact .inr (.inr ⟨nofun, hq, rfl⟩)
  | pulse =>
    obtain ⟨_, -, -, -, rfl⟩ | ⟨-, rfl⟩ | ⟨-, hq, rfl⟩ := execPulse_eq_next.1 h
    · exact .inl ⟨.inr (.inr rfl), rfl⟩
    · exact .inl ⟨.inr (.inr rfl), rfl⟩
    · exact .inr (.inr ⟨nofun, hq, rfl⟩)
  | loop => obtain rfl := execLoop_eq_next.1 h; exact .inr (.inl ⟨rfl, rfl⟩)

/-- Below 31 the next step is one higher as a number: SEQ does not wrap. -/
theorem toNat_succ_seq {q : StepNo} (h : q ≠ 31) : (q + 1).toNat = q.toNat + 1 := by
  have : q.toNat ≠ 31 := fun hq => h (BitVec.eq_of_toNat_eq hq)
  rw [BitVec.toNat_add_of_lt]
  · rfl
  · exact show q.toNat + 1 < 32 by omega

/-- A meaning other than LOOP that moves SEQ on from step 0 is refused at step 31: it looks at SEQ only when it moves on. -/
theorem exec_refused_at_last_step {i : Instr} {s t : State} (hi : i ≠ .loop) (h : exec i { s with seq := 0 } = .next t)
    (ht : t.seq ≠ 0) : exec i { s with seq := 31 } = .refused .seqPastEnd := by
  cases i with
  | sel ch => obtain ⟨hc, -, -⟩ := execSel_eq_next.1 h; exact execSel_eq_refused.2 (.inr ⟨hc, rfl, rfl⟩)
  | conv => obtain ⟨hch, hc, -, -⟩ := execConv_eq_next.1 h; exact execConv_eq_refused.2 (.inr ⟨hch, hc, rfl, rfl⟩)
  | dly =>
    obtain ⟨-, rfl⟩ | ⟨-, rfl⟩ | ⟨hh, -, -⟩ := execDly_eq_next.1 h
    · exact absurd rfl ht
    · exact absurd rfl ht
    · exact execDly_eq_refused.2 ⟨hh, rfl, rfl⟩
  | wait =>
    obtain ⟨hc, -, -⟩ | ⟨-, rfl⟩ := execWait_eq_next.1 h
    · exact execWait_eq_refused.2 (.inr ⟨hc, rfl, rfl⟩)
    · exact absurd rfl ht
  | rd10 d => obtain ⟨hc, -, -⟩ := execRd10_eq_next.1 h; exact execRd10_eq_refused.2 (.inr ⟨hc, rfl, rfl⟩)
  | rd8 => obtain ⟨hc, -, -⟩ := execRd8_eq_next.1 h; exact execRd8_eq_refused.2 (.inr ⟨hc, rfl, rfl⟩)
  | sin8 => exact execSin8_eq_refused.2 ⟨rfl, rfl⟩
  | usin8 => exact execUsin8_eq_refused.2 ⟨rfl, rfl⟩
  | pwcalc =>
    obtain ⟨o, a, v, ho, ha, hv, -, -⟩ := execPwcalc_eq_next.1 h
    exact execPwcalc_eq_refused.2 (.inr ⟨Option.ne_none_iff_exists'.2 ⟨o, ho⟩, Option.ne_none_iff_exists'.2 ⟨a, ha⟩,
      Option.ne_none_iff_exists'.2 ⟨v, hv⟩, rfl, rfl⟩)
  | phadv =>
    obtain ⟨v, hv, -, -⟩ := execPhadv_eq_next.1 h
    exact execPhadv_eq_refused.2 (.inr ⟨Option.ne_none_iff_exists'.2 ⟨v, hv⟩, rfl, rfl⟩)
  | pulse =>
    obtain ⟨_, -, -, -, rfl⟩ | ⟨-, rfl⟩ | ⟨hh, -, -⟩ := execPulse_eq_next.1 h
    · exact absurd rfl ht
    · exact absurd rfl ht
    · exact execPulse_eq_refused.2 (.inr (.inr ⟨hh, rfl, rfl⟩))
  | loop => exact absurd rfl hi

/-- With SEQ past the last entry of a sequence of legal words, fetching is refused (R28). -/
theorem fetch_past_end {s : State} (hl : ∀ w ∈ s.uop, legalWord w = true) (hq : s.uop.length ≤ s.seq.toNat) :
    fetch s = .refused .seqPastEnd := by
  have hall : s.uop.all legalWord = true := List.all_eq_true.2 hl
  simp [fetch, hall, List.getElem?_eq_none hq]

/-- Settles O19: past the end the fetch is refused; below the end SEQ moves by one; at 31 the move is refused. -/
theorem seqNeverPassesTheEnd : Obligations.SeqNeverPassesTheEnd := by
  refine ⟨fun s f hm hl hq => ?_, fun i s t h hi hne => ?_, fun i s t hi h ht => exec_refused_at_last_step hi h ht⟩
  · simp [step, hm, fetch_past_end hl hq]
  · obtain ⟨-, hq⟩ | ⟨hloop, -⟩ | ⟨-, hq, ht⟩ := exec_seq_cases h
    · exact absurd hq hne
    · exact absurd hloop hi
    · rw [ht, toNat_succ_seq hq]

/-! ### What a meaning does to the data registers (R20, R27) -/

/-- A meaning leaves every register but the one R20 lists for it as it was. -/
theorem exec_keeps_reg {i : Instr} {s t : State} {r : Reg} (h : exec i s = .next t) (hr : writtenReg i ≠ some r) :
    t.reg r = s.reg r := by
  cases i with
  | sel ch => obtain ⟨-, -, rfl⟩ := execSel_eq_next.1 h; cases r <;> rfl
  | conv => obtain ⟨-, -, -, rfl⟩ := execConv_eq_next.1 h; cases r <;> rfl
  | dly => obtain ⟨-, rfl⟩ | ⟨-, rfl⟩ | ⟨-, -, rfl⟩ := execDly_eq_next.1 h <;> cases r <;> rfl
  | wait => obtain ⟨-, -, rfl⟩ | ⟨-, rfl⟩ := execWait_eq_next.1 h <;> cases r <;> rfl
  | rd10 d =>
    obtain ⟨-, -, rfl⟩ := execRd10_eq_next.1 h
    cases d with
    | offset => cases r with
      | offset => exact absurd rfl hr
      | _ => rfl
    | speed => cases r with
      | speed => exact absurd rfl hr
      | _ => rfl
  | rd8 =>
    obtain ⟨-, -, rfl⟩ := execRd8_eq_next.1 h
    cases r with
    | ampl => exact absurd rfl hr
    | _ => rfl
  | sin8 =>
    obtain ⟨-, rfl⟩ := execSin8_eq_next.1 h
    cases r with
    | sine => exact absurd rfl hr
    | _ => rfl
  | usin8 =>
    obtain ⟨-, rfl⟩ := execUsin8_eq_next.1 h
    cases r with
    | sine => exact absurd rfl hr
    | _ => rfl
  | pwcalc =>
    obtain ⟨_, _, _, -, -, -, -, rfl⟩ := execPwcalc_eq_next.1 h
    cases r with
    | pw => exact absurd rfl hr
    | _ => rfl
  | phadv =>
    obtain ⟨_, -, -, rfl⟩ := execPhadv_eq_next.1 h
    cases r with
    | phase => exact absurd rfl hr
    | _ => rfl
  | pulse => obtain ⟨_, -, -, -, rfl⟩ | ⟨-, rfl⟩ | ⟨-, -, rfl⟩ := execPulse_eq_next.1 h <;> cases r <;> rfl
  | loop => obtain rfl := execLoop_eq_next.1 h; cases r <;> rfl

/-- A meaning gives the register R20 lists for it a value. -/
theorem exec_writes_value {i : Instr} {s t : State} {r : Reg} (h : exec i s = .next t) (hr : writtenReg i = some r) :
    t.reg r ≠ none := by
  cases i with
  | sel | conv | dly | wait | pulse | loop => exact absurd hr (by simp [writtenReg])
  | rd10 d =>
    obtain ⟨-, -, rfl⟩ := execRd10_eq_next.1 h
    cases d <;> cases hr <;> simp [State.reg]
  | rd8 => obtain ⟨-, -, rfl⟩ := execRd8_eq_next.1 h; cases hr; simp [State.reg]
  | sin8 => obtain ⟨-, rfl⟩ := execSin8_eq_next.1 h; cases hr; simp [State.reg]
  | usin8 => obtain ⟨-, rfl⟩ := execUsin8_eq_next.1 h; cases hr; simp [State.reg]
  | pwcalc => obtain ⟨_, _, _, -, -, -, -, rfl⟩ := execPwcalc_eq_next.1 h; cases hr; simp [State.reg]
  | phadv => cases hr; simp [State.reg]

/-- The environment's move touches no data register (R171). -/
@[simp] theorem reg_afterMove (f : Finish) (s : State) (r : Reg) : (envFinish f s.takeMove).reg r = s.reg r := by
  cases r <;> rfl

/-- A step without reset runs the micro-operation it fetched after the environment's move. -/
theorem exec_of_step_run {s t : State} {f : Finish} (hm : s.nextMove = .run f) (h : step s = .next t) :
    ∃ i, fetch s = .next i ∧ exec i (envFinish f s.takeMove) = .next t := by
  obtain ⟨e, he, -⟩ | ⟨g, i, hg, hi, hx⟩ := step_cases h
  · simp [hm] at he
  · cases hm.symm.trans hg
    exact ⟨i, hi, hx⟩

/-- Settles O27: the register is the fetched micro-operation's own, which has a value then, or it stays as it was. -/
theorem onlyTheListedWriterChangesARegister : Obligations.OnlyTheListedWriterChangesARegister := by
  intro s t f hm h r
  obtain ⟨i, hi, hx⟩ := exec_of_step_run hm h
  by_cases hr : writtenReg i = some r
  · exact ⟨fun _ => ⟨i, hi, hr⟩, fun _ => exec_writes_value hx hr⟩
  · have hkept : t.reg r = s.reg r := by simpa using exec_keeps_reg hx hr
    exact ⟨fun hne => absurd hkept hne, fun hs => hkept ▸ hs⟩

/-! ### The low bits of PHASE (R36) -/

/-- R131 in numbers: one advance adds the shifted sample modulo 65536. -/
theorem toNat_phaseAdvance (p : Params) (ph : Phase) (v : Sample10) :
    (phaseAdvance p ph v).toNat = (ph.toNat + v.toNat * 2 ^ p.speedShift) % 65536 := by
  have : zext ph + phaseIncrement p v = ((ph.toNat + v.toNat * 2 ^ p.speedShift : Nat) : Int) := by
    simp [zext, phaseIncrement, shiftLeft]
  rw [phaseAdvance, this, trunc, BitVec.ofInt_natCast, BitVec.toNat_ofNat]

/-- One advance adds a multiple of 2 ^ SPEED_SHIFT modulo 2 ^ 16, so it keeps the low SPEED_SHIFT bits. -/
theorem phaseAdvance_mod (p : Params) (ph : Phase) (v : Sample10) :
    (phaseAdvance p ph v).toNat % 2 ^ min p.speedShift 16 = ph.toNat % 2 ^ min p.speedShift 16 := by
  have hword : 2 ^ min p.speedShift 16 ∣ 65536 := pow_dvd_pow 2 (min_le_right p.speedShift 16)
  have hinc : 2 ^ min p.speedShift 16 ∣ v.toNat * 2 ^ p.speedShift :=
    Dvd.dvd.mul_left (pow_dvd_pow 2 (min_le_left p.speedShift 16)) _
  rw [toNat_phaseAdvance, Nat.mod_mod_of_dvd _ hword, Nat.add_mod, Nat.mod_eq_zero_of_dvd hinc, Nat.add_zero, Nat.mod_mod]

/-- PHASE after a meaning is as it was, or one advance further (R20, R131). -/
theorem exec_phase_cases {i : Instr} {s t : State} (h : exec i s = .next t) :
    t.phase = s.phase ∨ ∃ v, t.phase = phaseAdvance s.params s.phase v := by
  by_cases hi : i = .phadv
  · subst hi
    obtain ⟨v, -, -, rfl⟩ := execPhadv_eq_next.1 h
    exact .inr ⟨v, rfl⟩
  · have hr : writtenReg i ≠ some .phase := by cases i with
      | phadv => exact absurd rfl hi
      | rd10 d => cases d <;> simp [writtenReg]
      | _ => simp [writtenReg]
    exact .inl (BitVec.eq_of_toNat_eq (Option.some.inj (exec_keeps_reg h hr)))

/-- A meaning keeps the low SPEED_SHIFT bits of PHASE 0. -/
theorem exec_keeps_phaseAligned {i : Instr} {s t : State} (hs : s.PhaseAligned) (h : exec i s = .next t) :
    t.PhaseAligned := by
  obtain ⟨hp, -, -, -⟩ := exec_keeps_arguments h
  unfold State.PhaseAligned at hs ⊢
  rw [hp]
  obtain hph | ⟨v, hph⟩ := exec_phase_cases h
  · rw [hph, hs]
  · rw [hph, phaseAdvance_mod, hs]

theorem phaseAligned_of_phase_zero {s : State} (h : s.phase = 0) : s.PhaseAligned := by
  simp [State.PhaseAligned, h]

/-- Every step keeps the low SPEED_SHIFT bits of PHASE 0: a reset clears PHASE and the move leaves it alone. -/
theorem step_keeps_phaseAligned {s t : State} (hs : s.PhaseAligned) (h : step s = .next t) : t.PhaseAligned := by
  obtain ⟨e, -, rfl⟩ | ⟨f, i, -, -, hx⟩ := step_cases h
  · exact phaseAligned_of_phase_zero rfl
  · exact exec_keeps_phaseAligned (s := envFinish f s.takeMove) hs hx

/-- With SPEED_SHIFT = 2 an aligned PHASE has PHASE[1:0] = 0. -/
theorem lowBits_of_phaseAligned {s : State} (hs : s.PhaseAligned) (hk : s.params.speedShift = 2) :
    s.phase.extractLsb' 0 2 = 0 := by
  unfold State.PhaseAligned at hs
  rw [hk] at hs
  exact BitVec.eq_of_toNat_eq (by simpa using hs)

/-- Settles O43: PHASE is 0 at reset, and every step keeps its low bits. -/
theorem stepKeepsPhaseAligned : Obligations.StepKeepsPhaseAligned :=
  ⟨phaseAligned_of_phase_zero rfl, fun _ _ hs h =>
    have ht := step_keeps_phaseAligned hs h
    ⟨ht, lowBits_of_phaseAligned ht⟩⟩

/-! ### The machine's invariant (R28, R54, R141) -/

/-- With no request outstanding the invariant says that the line is low and that resets ahead release ready collaborators. -/
theorem inv_of_not_held {s : State} (hh : s.hold = .none) (hl : s.env.level s.params.pulseLine = false)
    (hr : ResetsReleaseReady s.params s.moves) : s.Inv where
  holdAtSeq i hi := by simp [hh, Hold.requestedBy] at hi
  lineHighOnlyInPulse hhigh := by simp [hl] at hhigh
  lineHighInPulse hp := by simp [hh] at hp
  resetsReleaseReady := hr

/-- With the line in no pulse the invariant has it low. -/
theorem State.Inv.line_low {s : State} (hs : s.Inv) (hh : s.hold ≠ .pulsing) : s.env.level s.params.pulseLine = false :=
  Bool.eq_false_iff.2 fun hhigh => hh (hs.lineHighOnlyInPulse hhigh)

theorem resetsReleaseReady_tail {p : Params} {ms : List EnvMove} (h : ResetsReleaseReady p ms) :
    ResetsReleaseReady p ms.tail := fun e he => h e (List.mem_of_mem_tail he)

/-- A reset comes only by the script (log entry 4). -/
theorem reset_mem_moves {s : State} {e : Env} (h : s.nextMove = .reset e) : EnvMove.reset e ∈ s.moves := by
  unfold State.nextMove at h
  cases hm : s.moves with
  | nil => simp [hm] at h
  | cons m ms => simp_all

/-- A finished request is still the same micro-operation's (R163). -/
@[simp] theorem requestedBy_finish (f : Finish) (k : Hold) : (k.finish f).requestedBy = k.requestedBy := by
  cases k with
  | none | slept | pulsed => rfl
  | sleeping => simp only [Hold.finish]; split <;> rfl
  | pulsing => simp only [Hold.finish]; split <;> rfl

/-- A pulse runs on exactly when it ran and was not finished. -/
@[simp] theorem finish_eq_pulsing {f : Finish} {k : Hold} : k.finish f = .pulsing ↔ k = .pulsing ∧ f.pulse = false := by
  cases k with
  | none | slept | pulsed => simp [Hold.finish]
  | sleeping => cases hd : f.delay <;> simp [Hold.finish, hd]
  | pulsing => cases hp : f.pulse <;> simp [Hold.finish, hp]

/-- After the environment's move the pulse line is high exactly if it was and the pulse was not finished. -/
theorem level_afterMove (f : Finish) (s : State) :
    (envFinish f s.takeMove).env.level s.params.pulseLine = (s.env.level s.params.pulseLine && !f.pulse) :=
  level_finishPulse_same s.params.pulseLine f.pulse s.env

/-- The environment's move keeps the invariant: it ends a pulse and lowers the line at once (R46, R140). -/
theorem inv_afterMove {s : State} (hs : s.Inv) (f : Finish) : (envFinish f s.takeMove).Inv where
  holdAtSeq i hi := hs.holdAtSeq i (by simpa using hi)
  lineHighOnlyInPulse hhigh := by
    have : s.env.level s.params.pulseLine = true ∧ f.pulse = false := by
      simpa using (level_afterMove f s).symm.trans hhigh
    exact finish_eq_pulsing.2 ⟨hs.lineHighOnlyInPulse this.1, this.2⟩
  lineHighInPulse hp := by
    obtain ⟨hh, hf⟩ := finish_eq_pulsing.1 hp
    exact (hs.lineHighInPulse hh).imp_left fun hhigh => (level_afterMove f s).trans (by simp [hhigh, hf])
  resetsReleaseReady := resetsReleaseReady_tail hs.resetsReleaseReady

theorem encode_injective {i j : Instr} (h : encode i = encode j) : i = j :=
  Except.ok.inj ((decodeWord_encode i).symm.trans (h ▸ decodeWord_encode j))

/-- Only DLY and PULSE run with a request outstanding, each with its own. -/
theorem State.Inv.requestedBy_of_fetch {s : State} {i j : Instr} (hs : s.Inv) (hi : fetch s = .next i)
    (hj : s.hold.requestedBy = some j) : j = i :=
  encode_injective (Option.some.inj ((hs.holdAtSeq j hj).symm.trans (fetch_eq_next.1 hi).2))

/-- A meaning other than DLY and PULSE leaves the outstanding request and the output lines as they are. -/
theorem exec_keeps_hold_and_lines {i : Instr} {s t : State} (h : exec i s = .next t) (hd : i ≠ .dly) (hp : i ≠ .pulse) :
    t.hold = s.hold ∧ t.env.line = s.env.line := by
  cases i with
  | sel ch => obtain ⟨-, -, rfl⟩ := execSel_eq_next.1 h; exact ⟨rfl, rfl⟩
  | conv => obtain ⟨-, -, -, rfl⟩ := execConv_eq_next.1 h; exact ⟨rfl, rfl⟩
  | dly => exact absurd rfl hd
  | wait => obtain ⟨-, -, rfl⟩ | ⟨-, rfl⟩ := execWait_eq_next.1 h <;> exact ⟨rfl, rfl⟩
  | rd10 d => obtain ⟨-, -, rfl⟩ := execRd10_eq_next.1 h; cases d <;> exact ⟨rfl, rfl⟩
  | rd8 => obtain ⟨-, -, rfl⟩ := execRd8_eq_next.1 h; exact ⟨rfl, rfl⟩
  | sin8 => obtain ⟨-, rfl⟩ := execSin8_eq_next.1 h; exact ⟨rfl, rfl⟩
  | usin8 => obtain ⟨-, rfl⟩ := execUsin8_eq_next.1 h; exact ⟨rfl, rfl⟩
  | pwcalc => obtain ⟨_, _, _, -, -, -, -, rfl⟩ := execPwcalc_eq_next.1 h; exact ⟨rfl, rfl⟩
  | phadv => obtain ⟨_, -, -, rfl⟩ := execPhadv_eq_next.1 h; exact ⟨rfl, rfl⟩
  | pulse => exact absurd rfl hp
  | loop => obtain rfl := execLoop_eq_next.1 h; exact ⟨rfl, rfl⟩

/-- DLY keeps the invariant: its call opens the hold of a DLY, and its completion leaves no request and a low line. -/
theorem execDly_keeps_inv {s t : State} (hs : s.Inv) (hi : fetch s = .next .dly) (h : execDly s = .next t) : t.Inv := by
  obtain ⟨hh, rfl⟩ | ⟨-, rfl⟩ | ⟨hh, -, rfl⟩ := execDly_eq_next.1 h
  · refine ⟨fun j hj => ?_, fun hhigh => ?_, nofun, hs.resetsReleaseReady⟩
    · cases hj
      exact (fetch_eq_next.1 hi).2
    · exact absurd (hs.lineHighOnlyInPulse hhigh) (by simp [hh])
  · exact hs
  · exact inv_of_not_held rfl (hs.line_low (by simp [hh])) hs.resetsReleaseReady

/-- PULSE keeps the invariant: its call opens the hold of a PULSE and raises the line unless the width is 0 (R142), and its
completion leaves no request and a low line. -/
theorem execPulse_keeps_inv {s t : State} (hs : s.Inv) (hi : fetch s = .next .pulse) (h : execPulse s = .next t) :
    t.Inv := by
  obtain ⟨w, -, hw, -, rfl⟩ | ⟨-, rfl⟩ | ⟨hh, -, rfl⟩ := execPulse_eq_next.1 h
  · refine ⟨fun j hj => ?_, fun _ => rfl, fun _ => ?_, hs.resetsReleaseReady⟩
    · cases hj
      exact (fetch_eq_next.1 hi).2
    · by_cases hzero : w = 0#16
      · exact .inr (hzero ▸ hw)
      · exact .inl (by simp [hzero])
  · exact hs
  · exact inv_of_not_held rfl (hs.line_low (by simp [hh])) hs.resetsReleaseReady

/-- Every meaning keeps the invariant: one other than DLY and PULSE runs with no request outstanding and opens none. -/
theorem exec_keeps_inv {i : Instr} {s t : State} (hs : s.Inv) (hi : fetch s = .next i) (h : exec i s = .next t) :
    t.Inv := by
  by_cases hd : i = .dly
  · subst hd; exact execDly_keeps_inv hs hi h
  by_cases hp : i = .pulse
  · subst hp; exact execPulse_keeps_inv hs hi h
  have hh : s.hold = .none := by
    cases hk : s.hold with
    | none => rfl
    | sleeping | slept => exact absurd (hs.requestedBy_of_fetch hi (by rw [hk]; rfl)).symm hd
    | pulsing | pulsed => exact absurd (hs.requestedBy_of_fetch hi (by rw [hk]; rfl)).symm hp
  obtain ⟨hold, line⟩ := exec_keeps_hold_and_lines h hd hp
  obtain ⟨params, -, moves, -⟩ := exec_keeps_arguments h
  refine inv_of_not_held (hold.trans hh) ?_ (by rw [params, moves]; exact hs.resetsReleaseReady)
  have : s.env.level s.params.pulseLine = false := hs.line_low (by simp [hh])
  simpa [Env.level, line, params] using this

/-- Settles O44: a reset releases ready collaborators and leaves no request; otherwise the move and the meaning keep the
invariant one after the other. -/
theorem stepKeepsTheMachineInvariant : Obligations.StepKeepsTheMachineInvariant := by
  intro s t hs h
  obtain ⟨e, he, rfl⟩ | ⟨f, i, -, hi, hx⟩ := step_cases h
  · obtain ⟨-, hlow⟩ := hs.resetsReleaseReady e (reset_mem_moves he)
    exact inv_of_not_held rfl hlow (resetsReleaseReady_tail hs.resetsReleaseReady)
  · exact exec_keeps_inv (inv_afterMove hs f) (by simpa using hi) hx

/-! ### The reset state (R34, R147) -/

/-- The invariant of the reference sequence at step 0 asks for no register and no channel: no request outstanding and ready
collaborators are enough (R147). -/
theorem refInv_at_step_zero {s : State} (hu : s.RunsReference) (hq : s.seq = 0) (hh : s.hold = .none)
    (he : s.env.ready s.params) (hr : ResetsReleaseReady s.params s.moves) : s.RefInv := by
  obtain ⟨hconv, hlow⟩ := he
  refine ⟨inv_of_not_held hh hlow hr, hu, ?_, ?_, ?_, ?_, ?_, ?_, ?_, ?_⟩ <;>
    simp [hq, Config.seqLen, convAtStep, channelAtStep, hconv]

/-- Settles O42: the reset state is at step 0 with ready collaborators and an empty script. -/
theorem resetMeetsTheInvariants : Obligations.ResetMeetsTheInvariants := by
  have hready : State.reset.env.ready State.reset.params := ⟨by decide, level_atReset _⟩
  have hresets : ResetsReleaseReady State.reset.params State.reset.moves := fun _ he => nomatch he
  have href : State.reset.RefInv := refInv_at_step_zero rfl rfl rfl hready hresets
  exact ⟨href.inv, href, phaseAligned_of_phase_zero rfl⟩

end Sys2Proof.Machine
end

section
/-! Noninterference (R35), and the settlement of O51. Two runs are compared whose states differ in the data registers but
PHASE and in ENV alone. Each micro-operation depends only on the parts it reads and makes the runs agree on those it writes;
the reference sequence writes each part before it reads it. -/

namespace Sys2Proof.Machine

/-! ### Two states that differ in registers and ENV -/

/-- `s` with the data registers but PHASE, and ENV, taken from `r`. -/
def State.refill (s r : State) : State :=
  { s with offset := r.offset, speed := r.speed, ampl := r.ampl, sine := r.sine, pw := r.pw, env := r.env }

/-- What a micro-operation can read or write of the registers but PHASE and of ENV. Whether a conversion is in flight stands
apart from the converter's state, since SEL and CONV read only that. -/
inductive Part where
  | offset | speed | ampl | sine | pw | channel | converter | inFlight | pulseLine

/-- `r` agrees with `s` on a part; the pulse line is the one of `s`. -/
def SamePart (s r : State) : Part → Prop
  | .offset => r.offset = s.offset
  | .speed => r.speed = s.speed
  | .ampl => r.ampl = s.ampl
  | .sine => r.sine = s.sine
  | .pw => r.pw = s.pw
  | .channel => r.env.ch = s.env.ch
  | .converter => r.env.conv = s.env.conv
  | .inFlight => r.env.conv = .busy ↔ s.env.conv = .busy
  | .pulseLine => r.env.level s.params.pulseLine = s.env.level s.params.pulseLine

theorem samePart_self (s : State) (x : Part) : SamePart s s x := by cases x <;> simp [SamePart]

/-- The parts a micro-operation's outcome depends on (R46, R100 to R105, R120, R131, R140). -/
def readParts : Instr → List Part
  | .sel _ => [.inFlight]
  | .conv => [.channel, .inFlight]
  | .wait | .rd10 _ | .rd8 => [.converter]
  | .pwcalc => [.offset, .ampl, .sine]
  | .phadv => [.speed]
  | .pulse => [.pw, .pulseLine]
  | .dly | .sin8 | .usin8 | .loop => []

/-- The parts a micro-operation sets, whatever they were. -/
def writtenParts : Instr → List Part
  | .sel _ => [.channel]
  | .conv => [.converter, .inFlight]
  | .rd10 .offset => [.offset]
  | .rd10 .speed => [.speed]
  | .rd8 => [.ampl]
  | .sin8 | .usin8 => [.sine]
  | .pwcalc => [.pw]
  | .dly | .wait | .phadv | .pulse | .loop => []

/-- A micro-operation runs alike in two states that agree on what it reads; afterwards they agree on what it writes, and on
all they agreed on before. -/
theorem exec_refill {i : Instr} {s t r : State} (h : exec i s = .next t) (hr : ∀ x ∈ readParts i, SamePart s r x) :
    ∃ r', exec i (s.refill r) = .next (t.refill r') ∧ ∀ x, x ∈ writtenParts i ∨ SamePart s r x → SamePart t r' x := by
  cases i with
  | sel ch =>
    obtain ⟨hc, hq, rfl⟩ := execSel_eq_next.1 h
    have hb : r.env.conv = .busy ↔ s.env.conv = .busy := hr .inFlight (by simp [readParts])
    refine ⟨{ r with env := { r.env with ch := some ch } }, execSel_eq_next.2 ⟨mt hb.1 hc, hq, rfl⟩, fun x hx => ?_⟩
    cases x with
    | channel => rfl
    | _ => exact hx.resolve_left (by simp [writtenParts])
  | conv =>
    obtain ⟨hch, hc, hq, rfl⟩ := execConv_eq_next.1 h
    have hs : r.env.ch = s.env.ch := hr .channel (by simp [readParts])
    have hb : r.env.conv = .busy ↔ s.env.conv = .busy := hr .inFlight (by simp [readParts])
    refine ⟨{ r with env := { r.env with conv := .busy } },
      execConv_eq_next.2 ⟨hs.trans_ne hch, mt hb.1 hc, hq, rfl⟩, fun x hx => ?_⟩
    cases x with
    | converter => rfl
    | inFlight => exact Iff.rfl
    | _ => exact hx.resolve_left (by simp [writtenParts])
  | dly =>
    refine ⟨r, execDly_eq_next.2 ?_, fun x hx => ?_⟩
    · obtain ⟨hh, rfl⟩ | ⟨hh, rfl⟩ | ⟨hh, hq, rfl⟩ := execDly_eq_next.1 h
      · exact .inl ⟨hh, rfl⟩
      · exact .inr (.inl ⟨hh, rfl⟩)
      · exact .inr (.inr ⟨hh, hq, rfl⟩)
    · obtain ⟨-, rfl⟩ | ⟨-, rfl⟩ | ⟨-, -, rfl⟩ := execDly_eq_next.1 h <;>
        cases x <;> exact hx.resolve_left List.not_mem_nil
  | wait =>
    have hs : r.env.conv = s.env.conv := hr .converter (by simp [readParts])
    refine ⟨r, execWait_eq_next.2 ?_, fun x hx => ?_⟩
    · obtain ⟨hc, hq, rfl⟩ | ⟨hc, rfl⟩ := execWait_eq_next.1 h
      · exact .inl ⟨hs.trans hc, hq, rfl⟩
      · exact .inr ⟨hs.trans hc, rfl⟩
    · obtain ⟨-, -, rfl⟩ | ⟨-, rfl⟩ := execWait_eq_next.1 h <;> cases x <;> exact hx.resolve_left List.not_mem_nil
  | rd10 d =>
    obtain ⟨hc, hq, rfl⟩ := execRd10_eq_next.1 h
    have hs : r.env.conv = s.env.conv := hr .converter (by simp [readParts])
    refine ⟨writeDest d s.answer10 r, execRd10_eq_next.2 ⟨hs.trans hc, hq, by cases d <;> rfl⟩, fun x hx => ?_⟩
    cases d with
    | offset => cases x with
      | offset => rfl
      | _ => exact hx.resolve_left (by simp [writtenParts])
    | speed => cases x with
      | speed => rfl
      | _ => exact hx.resolve_left (by simp [writtenParts])
  | rd8 =>
    obtain ⟨hc, hq, rfl⟩ := execRd8_eq_next.1 h
    have hs : r.env.conv = s.env.conv := hr .converter (by simp [readParts])
    refine ⟨{ r with ampl := some s.answer8 }, execRd8_eq_next.2 ⟨hs.trans hc, hq, rfl⟩, fun x hx => ?_⟩
    cases x with
    | ampl => rfl
    | _ => exact hx.resolve_left (by simp [writtenParts])
  | sin8 =>
    obtain ⟨hq, rfl⟩ := execSin8_eq_next.1 h
    refine ⟨{ r with sine := some (sin8 s.params.sqImpl (angleOf s.phase)) }, execSin8_eq_next.2 ⟨hq, rfl⟩, fun x hx => ?_⟩
    cases x with
    | sine => rfl
    | _ => exact hx.resolve_left (by simp [writtenParts])
  | usin8 =>
    obtain ⟨hq, rfl⟩ := execUsin8_eq_next.1 h
    refine ⟨{ r with sine := some (usin8 s.params.sqImpl (angleOf s.phase)) }, execUsin8_eq_next.2 ⟨hq, rfl⟩,
      fun x hx => ?_⟩
    cases x with
    | sine => rfl
    | _ => exact hx.resolve_left (by simp [writtenParts])
  | pwcalc =>
    obtain ⟨o, a, v, ho, ha, hv, hq, rfl⟩ := execPwcalc_eq_next.1 h
    have hso : r.offset = s.offset := hr .offset (by simp [readParts])
    have hsa : r.ampl = s.ampl := hr .ampl (by simp [readParts])
    have hsv : r.sine = s.sine := hr .sine (by simp [readParts])
    refine ⟨{ r with pw := some (pulseWidth s.params o v a) },
      execPwcalc_eq_next.2 ⟨o, a, v, hso.trans ho, hsa.trans ha, hsv.trans hv, hq, rfl⟩, fun x hx => ?_⟩
    cases x with
    | pw => rfl
    | _ => exact hx.resolve_left (by simp [writtenParts])
  | phadv =>
    obtain ⟨v, hv, hq, rfl⟩ := execPhadv_eq_next.1 h
    have hs : r.speed = s.speed := hr .speed (by simp [readParts])
    refine ⟨r, execPhadv_eq_next.2 ⟨v, hs.trans hv, hq, rfl⟩, fun x hx => ?_⟩
    cases x <;> exact hx.resolve_left List.not_mem_nil
  | pulse =>
    have hsw : r.pw = s.pw := hr .pw (by simp [readParts])
    have hsl : r.env.level s.params.pulseLine = s.env.level s.params.pulseLine := hr .pulseLine (by simp [readParts])
    obtain ⟨w, hh, hw, hl, rfl⟩ | ⟨hh, rfl⟩ | ⟨hh, hq, rfl⟩ := execPulse_eq_next.1 h
    · refine ⟨{ r with env := r.env.drive s.params.pulseLine (pulseRises w s.ticks) },
        execPulse_eq_next.2 (.inl ⟨w, hh, hsw.trans hw, hsl.trans hl, rfl⟩), fun x hx => ?_⟩
      cases x with
      | pulseLine => exact (level_drive_same _ _ _).trans (level_drive_same _ _ _).symm
      | _ => exact hx.resolve_left List.not_mem_nil
    · refine ⟨r, execPulse_eq_next.2 (.inr (.inl ⟨hh, rfl⟩)), fun x hx => hx.resolve_left List.not_mem_nil⟩
    · refine ⟨r, execPulse_eq_next.2 (.inr (.inr ⟨hh, hq, rfl⟩)), fun x hx => ?_⟩
      cases x <;> exact hx.resolve_left List.not_mem_nil
  | loop =>
    obtain rfl := execLoop_eq_next.1 h
    refine ⟨r, execLoop_eq_next.2 rfl, fun x hx => ?_⟩
    cases x <;> exact hx.resolve_left List.not_mem_nil

/-- A conversion is in flight after the environment's move exactly if it was and is not finished. -/
theorem conv_finish_eq_busy {c : Conv} {f : Bool} : c.finish f = .busy ↔ c = .busy ∧ f = false := by
  cases c <;> cases f <;> simp [Conv.finish]

/-- The environment's move acts alike on two states that agree on the pulse line, and keeps what they agree on. -/
theorem afterMove_refill (f : Finish) (s r : State) :
    ∃ r', envFinish f (s.refill r).takeMove = (envFinish f s.takeMove).refill r' ∧
      ∀ x, SamePart s r x → SamePart (envFinish f s.takeMove) r' x := by
  refine ⟨{ r with
    env := { r.env.finishPulse s.params.pulseLine f.pulse with conv := r.env.conv.finish f.conv } }, rfl, fun x hx => ?_⟩
  cases x with
  | converter => exact congrArg (Conv.finish f.conv) hx
  | inFlight => exact conv_finish_eq_busy.trans ((and_congr_left' hx).trans conv_finish_eq_busy.symm)
  | pulseLine =>
    calc _ = (r.env.level s.params.pulseLine && !f.pulse) := level_finishPulse_same s.params.pulseLine f.pulse r.env
      _ = (s.env.level s.params.pulseLine && !f.pulse) := congrArg (· && !f.pulse) hx
      _ = _ := (level_afterMove f s).symm
  | _ => exact hx

/-! ### The reference sequence writes before it reads (R147) -/

/-- The step of the reference sequence from which on a part has been written in the same iteration; at step 0 nothing but
ready collaborators. -/
def dueAt : Part → Nat
  | .inFlight | .pulseLine => 0
  | .channel => 1
  | .converter => 2
  | .offset => 5
  | .speed => 10
  | .ampl => 15
  | .sine => 16
  | .pw => 17

/-- The micro-operation at step `k` of the reference sequence reads only parts written before, and writes those that are due
at the next step. -/
theorem reference_writes_before_reads {p : Params} {k : Nat} {i : Instr} (h : (referenceProgram p)[k]? = some i) :
    (∀ x ∈ readParts i, dueAt x ≤ k) ∧ ∀ x, dueAt x = k + 1 → x ∈ writtenParts i := by
  have hk : k < 20 := (List.getElem?_eq_some_iff.1 h).1
  constructor
  · interval_cases k <;> cases h <;> simp [readParts, dueAt]
  · intro x
    interval_cases k <;> cases h <;> cases x <;> simp [writtenParts, dueAt]

/-- A machine that runs the reference sequence fetches its entry at SEQ. -/
theorem reference_at_seq {s : State} {i : Instr} (hu : s.RunsReference) (hi : fetch s = .next i) :
    (referenceProgram s.params)[s.seq.toNat]? = some i := by
  have hw := (fetch_eq_next.1 hi).2
  rw [hu, referenceWords, encodeAll, List.getElem?_map] at hw
  obtain ⟨j, hj, hji⟩ := Option.map_eq_some_iff.1 hw
  rw [hj, encode_injective hji]

/-- Every step leaves the machine running the reference sequence of its parameters (R52). -/
theorem step_keeps_runsReference {s t : State} (hu : s.RunsReference) (h : step s = .next t) : t.RunsReference := by
  obtain ⟨e, -, rfl⟩ | ⟨f, i, -, -, hx⟩ := step_cases h
  · exact hu
  · obtain ⟨hp, hw, -, -⟩ := exec_keeps_arguments hx
    exact hw.trans (hu.trans (congrArg referenceWords hp.symm))

/-! ### Runs -/

/-- `r` agrees with `s` on all that the iteration of `s` has written so far. -/
def AgreesOnDue (s r : State) : Prop := ∀ x, dueAt x ≤ s.seq.toNat → SamePart s r x

/-- A meaning moves SEQ on by one at most. -/
theorem exec_seq_le {i : Instr} {s t : State} (h : exec i s = .next t) : t.seq.toNat ≤ s.seq.toNat + 1 := by
  obtain ⟨-, hq⟩ | ⟨-, hq⟩ | ⟨-, hlast, hq⟩ := exec_seq_cases h
  · simp [hq]
  · simp [hq]
  · exact (hq ▸ toNat_succ_seq hlast).le

/-- One step of the reference sequence runs alike in two states that agree on what the iteration has written, and keeps them
in agreement. -/
theorem step_refill {s t r : State} (hu : s.RunsReference) (hr : AgreesOnDue s r) (h : step s = .next t) :
    ∃ r', step (s.refill r) = .next (t.refill r') ∧ AgreesOnDue t r' := by
  obtain ⟨e, he, rfl⟩ | ⟨f, i, hm, hi, hx⟩ := step_cases h
  · exact ⟨resetCore e s.takeMove, step_reset he, fun x _ => samePart_self _ x⟩
  · obtain ⟨hreads, hwrites⟩ := reference_writes_before_reads (reference_at_seq hu hi)
    obtain ⟨r₁, hmove, hsame₁⟩ := afterMove_refill f s r
    obtain ⟨r₂, hexec, hsame₂⟩ := exec_refill hx fun x hx => hsame₁ x (hr x (hreads x hx))
    refine ⟨r₂, ?_, fun x hdue => hsame₂ x ?_⟩
    · rw [step_run (s := s.refill r) hm ((fetch_congr rfl rfl).trans hi), hmove, hexec]
    · have hnext : dueAt x ≤ s.seq.toNat + 1 := hdue.trans (exec_seq_le (s := envFinish f s.takeMove) hx)
      obtain hold | hnew : dueAt x ≤ s.seq.toNat ∨ dueAt x = s.seq.toNat + 1 := by omega
      · exact .inr (hsame₁ x (hr x hold))
      · exact .inl (hwrites x hnew)

/-- A run of the reference sequence is the same in two states that agree on what the iteration has written. -/
theorem steps_refill {n : Nat} {s t r : State} (hu : s.RunsReference) (hr : AgreesOnDue s r) (h : steps n s = .next t) :
    ∃ r', steps n (s.refill r) = .next (t.refill r') := by
  induction n generalizing s r with
  | zero => cases h; exact ⟨r, rfl⟩
  | succ n ih =>
    rw [steps_succ] at h
    obtain ⟨u, hs, hn⟩ := andThen_eq_next.1 h
    obtain ⟨r₁, hs', hr₁⟩ := step_refill hu hr hs
    obtain ⟨r₂, hn'⟩ := ih (step_keeps_runsReference hu hs) hr₁ hn
    exact ⟨r₂, andThen_eq_next.2 ⟨_, hs', hn'⟩⟩

/-- At step 0 ready collaborators are all that two states have to share. -/
theorem agreesOnDue_of_ready {s r : State} (hq : s.seq = 0) (hs : s.env.ready s.params) (hr : r.env.ready s.params) :
    AgreesOnDue s r := by
  intro x hx
  rw [hq] at hx
  cases x with
  | inFlight => exact iff_of_false hr.1 hs.1
  | pulseLine => exact hr.2.trans hs.2.symm
  | _ => exact absurd hx (by decide)

/-- Settles O51: the other state is the first one refilled, and refilling changes no trace, PHASE, SEQ or request. -/
theorem onlyPhaseCarriesOver : Obligations.OnlyPhaseCarriesOver := by
  intro s o v a n w e k t hb he h
  have hr : AgreesOnDue s { s with offset := o, speed := v, ampl := a, sine := n, pw := w, env := e } :=
    agreesOnDue_of_ready hb.atStepZero hb.envReady he
  obtain ⟨r', hrun⟩ := steps_refill hb.runsReference hr h
  exact ⟨t.refill r', hrun, rfl, rfl, rfl, rfl⟩

end Sys2Proof.Machine
end

section
/-! The collaborator calls (20_memory.md): which of them are refused (R46), what no step can write (R30, R52), the one
event a step records (R49), the strobes it raises (R53, R54), and the settlements of O18, O28, O29 and O31. -/

namespace Sys2Proof.Machine

/-- Settles O18: each row of R46 read off the refusals of the meaning that makes the call; DLY and the meanings that make no
call are refused by none of these reasons. -/
theorem admissionTableIsExact : Obligations.AdmissionTableIsExact := by
  intro i s
  cases i with
  | sel ch => simp [exec, execSel_eq_refused]
  | conv => simp [exec, execConv_eq_refused]
  | dly => simp [exec, execDly_eq_refused]
  | wait => simp [exec, execWait_eq_refused]
  | rd10 d => simp [exec, execRd10_eq_refused]
  | rd8 => simp [exec, execRd8_eq_refused]
  | sin8 => simp [exec, execSin8_eq_refused]
  | usin8 => simp [exec, execUsin8_eq_refused]
  | pwcalc => simp [exec, execPwcalc_eq_refused]
  | phadv => simp [exec, execPhadv_eq_refused]
  | pulse => simp [exec, execPulse_eq_refused]
  | loop => simp [exec, execLoop_ne_refused]

/-- Settles O28: a reset keeps the arguments of the step, and so do the move and the meaning. -/
theorem parametersAndSequenceAreReadOnly : Obligations.ParametersAndSequenceAreReadOnly := by
  intro s t h
  obtain ⟨e, -, rfl⟩ | ⟨f, i, -, -, hx⟩ := step_cases h
  · exact ⟨rfl, rfl⟩
  · obtain ⟨hparams, huop, -, -⟩ := exec_keeps_arguments hx
    exact ⟨hparams, huop⟩

/-! ### The event of a meaning (R49) -/

/-- `e` is the event R49 gives the micro-operation `i` that took the machine from `s` to `t`. -/
def CallOf (i : Instr) (s t : State) (e : Event) : Prop :=
  match i with
  | .sel ch => e = .sel ch
  | .conv => e = .start
  | .dly => e = .sleep s.params.tSampleUs
  | .wait => e = .ready
  | .rd10 .offset => ∃ v, e = .read10 v ∧ t.offset = some v
  | .rd10 .speed => ∃ v, e = .read10 v ∧ t.speed = some v
  | .rd8 => ∃ v, e = .read8 v ∧ t.ampl = some v
  | .pulse => ∃ w, e = .pulse s.params.pulseLine w ∧ s.pw = some w
  | .sin8 | .usin8 | .pwcalc | .phadv | .loop => False

/-- A meaning records nothing, or the one event of its own call. -/
theorem exec_trace_cases {i : Instr} {s t : State} (h : exec i s = .next t) :
    t.trace = s.trace ∨ ∃ e, t.trace = s.trace ++ [e] ∧ CallOf i s t e := by
  cases i with
  | sel ch => obtain ⟨-, -, rfl⟩ := execSel_eq_next.1 h; exact .inr ⟨_, rfl, rfl⟩
  | conv => obtain ⟨-, -, -, rfl⟩ := execConv_eq_next.1 h; exact .inr ⟨_, rfl, rfl⟩
  | dly =>
    obtain ⟨-, rfl⟩ | ⟨-, rfl⟩ | ⟨-, -, rfl⟩ := execDly_eq_next.1 h
    · exact .inr ⟨_, rfl, rfl⟩
    · exact .inl rfl
    · exact .inl rfl
  | wait =>
    obtain ⟨-, -, rfl⟩ | ⟨-, rfl⟩ := execWait_eq_next.1 h
    · exact .inr ⟨_, rfl, rfl⟩
    · exact .inl rfl
  | rd10 d => obtain ⟨-, -, rfl⟩ := execRd10_eq_next.1 h; cases d <;> exact .inr ⟨_, rfl, _, rfl, rfl⟩
  | rd8 => obtain ⟨-, -, rfl⟩ := execRd8_eq_next.1 h; exact .inr ⟨_, rfl, _, rfl, rfl⟩
  | sin8 => obtain ⟨-, rfl⟩ := execSin8_eq_next.1 h; exact .inl rfl
  | usin8 => obtain ⟨-, rfl⟩ := execUsin8_eq_next.1 h; exact .inl rfl
  | pwcalc => obtain ⟨_, _, _, -, -, -, -, rfl⟩ := execPwcalc_eq_next.1 h; exact .inl rfl
  | phadv => obtain ⟨_, -, -, rfl⟩ := execPhadv_eq_next.1 h; exact .inl rfl
  | pulse =>
    obtain ⟨w, -, hw, -, rfl⟩ | ⟨-, rfl⟩ | ⟨-, -, rfl⟩ := execPulse_eq_next.1 h
    · exact .inr ⟨_, rfl, w, rfl, hw⟩
    · exact .inl rfl
    · exact .inl rfl
  | loop => obtain rfl := execLoop_eq_next.1 h; exact .inl rfl

/-- Settles O29: the meaning of the fetched micro-operation records at most its own event, and the environment's move before
it touches neither the trace, PW nor the parameters. -/
theorem traceGrowsByTheFetchedCall : Obligations.TraceGrowsByTheFetchedCall := by
  intro s t f hm h
  obtain ⟨i, hi, hx⟩ := exec_of_step_run hm h
  obtain hsame | ⟨e, hone, hcall⟩ := exec_trace_cases hx
  · exact .inl hsame
  · refine .inr ⟨i, e, hi, hone, ?_⟩
    cases i with
    | rd10 d => cases d <;> exact hcall
    | _ => exact hcall

/-! ### The strobes of a step (R53, R54) -/

/-- A collaborator call raises at most one strobe: its own (R53). -/
theorem strobes_ofEvent_le_one (p : Params) (e : Event) : (PortsOut.ofEvent p e).strobes ≤ 1 := by
  cases e with
  | sel | start | sleep | pulse => exact le_rfl
  | ready | read10 | read8 => exact Nat.zero_le 1

/-- A reset leaves no event, so no call is made in its step. -/
theorem strobesOfStep_resetCore (s : State) (e : Env) : strobesOfStep s (resetCore e s.takeMove) = 0 := by
  simp [strobesOfStep, callsOfStep, resetCore]

/-- A finished request is outstanding still, until its micro-operation completes (R163). -/
@[simp] theorem finish_eq_none {f : Finish} {k : Hold} : k.finish f = .none ↔ k = .none := by
  cases k with
  | none | slept | pulsed => simp [Hold.finish]
  | sleeping => cases hd : f.delay <;> simp [Hold.finish, hd]
  | pulsing => cases hp : f.pulse <;> simp [Hold.finish, hp]

/-- A request outstanding is a DLY's or a PULSE's. -/
theorem exists_requestedBy {k : Hold} (h : k ≠ .none) : k.requestedBy = some .dly ∨ k.requestedBy = some .pulse := by
  cases k with
  | none => exact absurd rfl h
  | sleeping | slept => exact .inl rfl
  | pulsing | pulsed => exact .inr rfl

/-- DLY makes its call only with no request outstanding (R54). -/
theorem execDly_trace_of_held {s t : State} (hh : s.hold ≠ .none) (h : execDly s = .next t) : t.trace = s.trace := by
  obtain ⟨hnone, -⟩ | ⟨-, rfl⟩ | ⟨-, -, rfl⟩ := execDly_eq_next.1 h
  · exact absurd hnone hh
  · rfl
  · rfl

/-- PULSE makes its call only with no request outstanding (R54). -/
theorem execPulse_trace_of_held {s t : State} (hh : s.hold ≠ .none) (h : execPulse s = .next t) : t.trace = s.trace := by
  obtain ⟨_, hnone, -⟩ | ⟨-, rfl⟩ | ⟨-, -, rfl⟩ := execPulse_eq_next.1 h
  · exact absurd hnone hh
  · rfl
  · rfl

/-- With a request outstanding the micro-operation fetched is the one that made it, and it makes no second call. -/
theorem exec_trace_of_held {i : Instr} {s t : State} (hs : s.Inv) (hi : fetch s = .next i) (hh : s.hold ≠ .none)
    (h : exec i s = .next t) : t.trace = s.trace := by
  obtain hreq | hreq := exists_requestedBy hh
  · obtain rfl := hs.requestedBy_of_fetch hi hreq
    exact execDly_trace_of_held hh h
  · obtain rfl := hs.requestedBy_of_fetch hi hreq
    exact execPulse_trace_of_held hh h

/-- Settles O31: a step makes at most one call, each call raises at most one strobe, and a request outstanding before the
environment's move is outstanding after it. -/
theorem atMostOneStrobePerStep : Obligations.AtMostOneStrobePerStep := by
  intro s t hs h
  obtain ⟨e, -, rfl⟩ | ⟨f, i, -, hi, hx⟩ := step_cases h
  · simp [strobesOfStep_resetCore]
  · refine ⟨?_, fun hh => ?_⟩
    · obtain hsame | ⟨e, hone, -⟩ := exec_trace_cases hx
      · simp [strobesOfStep_of_trace_eq (s := s) hsame]
      · rw [strobesOfStep_of_trace_append (s := s) hone]
        exact strobes_ofEvent_le_one s.params e
    · have hheld : (envFinish f s.takeMove).hold ≠ .none := fun hnone => hh (finish_eq_none.1 hnone)
      have hsame : t.trace = (envFinish f s.takeMove).trace :=
        exec_trace_of_held (inv_afterMove hs f) (by simpa using hi) hheld hx
      exact strobesOfStep_of_trace_eq hsame

end Sys2Proof.Machine
end

section
/-! The encoding (30_encoding.md): decode and encode are inverse on words and on sequences (R66, R69), the match and mask
table accepts exactly the words that decode (R68), and the illegal words by their number (R70, R71). -/

namespace Sys2Proof

/-! ### Words and sequences that decode (R66, R67, R69) -/

/-- A word decodes to a micro-operation exactly when it is that micro-operation's word. -/
theorem decodeWord_eq_ok_iff {w : Byte} {i : Instr} : decodeWord w = .ok i ↔ w = encode i :=
  ⟨encode_of_decodeWord, fun h => h ▸ decodeWord_encode i⟩

/-- A sequence decodes when its first word and the rest do. -/
theorem decodeAll_cons_eq_ok_iff {w : Byte} {ws : List Byte} {is : List Instr} :
    decodeAll (w :: ws) = .ok is ↔ ∃ i js, decodeWord w = .ok i ∧ decodeAll ws = .ok js ∧ is = i :: js := by
  rw [decodeAll]
  cases decodeWord w with
  | error e => simp
  | ok i => cases decodeAll ws <;> simp [eq_comm]

/-- A sequence decodes to micro-operations exactly when it is the sequence of their words. -/
theorem decodeAll_eq_ok_iff {ws : List Byte} {is : List Instr} : decodeAll ws = .ok is ↔ ws = encodeAll is := by
  induction ws generalizing is with
  | nil => cases is <;> simp [decodeAll, encodeAll]
  | cons w ws ih =>
    simp only [decodeAll_cons_eq_ok_iff, decodeWord_eq_ok_iff, ih]
    cases is <;> simp [encodeAll]

/-- Settles O2: both directions of the equivalence between a sequence that decodes and the words of what it decodes to. -/
theorem sequenceRoundTrip : Obligations.SequenceRoundTrip :=
  ⟨fun _ => decodeAll_eq_ok_iff.2 rfl, fun _ _ => decodeAll_eq_ok_iff.1⟩

/-- Settles O1: the words of R67's table are the words of their micro-operations. -/
theorem specWordsDecode : Obligations.SpecWordsDecode :=
  ⟨decodeWord_encode (.sel 0), decodeWord_encode (.sel 1), decodeWord_encode (.sel 2), decodeWord_encode (.sel 3),
    decodeWord_encode .conv, decodeWord_encode .dly, decodeWord_encode .wait, decodeWord_encode (.rd10 .offset),
    decodeWord_encode (.rd10 .speed), decodeWord_encode .rd8, decodeWord_encode .sin8, decodeWord_encode .usin8,
    decodeWord_encode .pwcalc, decodeWord_encode .phadv, decodeWord_encode .pulse, decodeWord_encode .loop⟩

/-! ### The match and mask table (R68) -/

/-- The word of a micro-operation is accepted by the row of its mnemonic only. -/
theorem accepting_row_of_encode (i : Instr) :
    (opRows.filter fun r => r.accepts (encode i)).map OpRow.mnemonic = [i.mnemonic] := by
  cases i with
  | sel ch => exact Laws.OpRow.sel ch
  | conv => exact Laws.OpRow.conv
  | dly => exact Laws.OpRow.dly
  | wait => exact Laws.OpRow.wait
  | rd10 d => exact Laws.OpRow.rd10 d
  | rd8 => exact Laws.OpRow.rd8
  | sin8 => exact Laws.OpRow.sin8
  | usin8 => exact Laws.OpRow.usin8
  | pwcalc => exact Laws.OpRow.pwcalc
  | phadv => exact Laws.OpRow.phadv
  | pulse => exact Laws.OpRow.pulse
  | loop => exact Laws.OpRow.loop

/-- A row whose mask covers the whole word accepts its own word only. -/
theorem accepts_fullMask {m : String} {x w : Byte} : (OpRow.mk m x 0xFF).accepts w = true ↔ w = x := by
  have hand : w &&& 0xFF = w := BitVec.and_allOnes
  rw [OpRow.accepts, hand, beq_iff_eq]

/-- SEL's row leaves the two bits of the channel open. -/
theorem eq_encode_sel_of_accepts {m : String} {w : Byte} (h : (OpRow.mk m 0x00 0xFC).accepts w = true) :
    w = encode (.sel (chField w)) := by
  have key : ∀ w : Byte, w &&& 0xFC = 0x00 → w = encode (.sel (chField w)) := by decide
  exact key w (eq_of_beq h)

/-- RD10's row leaves the bit of the destination open. -/
theorem eq_encode_rd10_of_accepts {m : String} {w : Byte} (h : (OpRow.mk m 0x40 0xFE).accepts w = true) :
    w = encode (.rd10 (destField w)) := by
  have key : ∀ w : Byte, w &&& 0xFE = 0x40 → w = encode (.rd10 (destField w)) := by decide
  exact key w (eq_of_beq h)

/-- A row accepts words of micro-operations only. -/
theorem eq_encode_of_accepts {r : OpRow} {w : Byte} (hr : r ∈ opRows) (h : r.accepts w = true) : ∃ i, w = encode i := by
  simp only [opRows, List.cons_append, List.nil_append, List.mem_cons, List.not_mem_nil, or_false] at hr
  rcases hr with rfl | rfl | rfl | rfl | rfl | rfl | rfl | rfl | rfl | rfl | rfl | rfl
  · exact ⟨_, eq_encode_sel_of_accepts h⟩
  · exact ⟨.conv, accepts_fullMask.1 h⟩
  · exact ⟨.dly, accepts_fullMask.1 h⟩
  · exact ⟨.wait, accepts_fullMask.1 h⟩
  · exact ⟨_, eq_encode_rd10_of_accepts h⟩
  · exact ⟨.rd8, accepts_fullMask.1 h⟩
  · exact ⟨.sin8, accepts_fullMask.1 h⟩
  · exact ⟨.usin8, accepts_fullMask.1 h⟩
  · exact ⟨.pwcalc, accepts_fullMask.1 h⟩
  · exact ⟨.phadv, accepts_fullMask.1 h⟩
  · exact ⟨.pulse, accepts_fullMask.1 h⟩
  · exact ⟨.loop, accepts_fullMask.1 h⟩

/-- Settles O3: a word that decodes is its micro-operation's and has that row; a word some row accepts decodes. -/
theorem decoderAgreesWithMatchMask : Obligations.DecoderAgreesWithMatchMask := by
  refine fun w => ⟨fun i hi => ?_, fun ⟨e, he⟩ r hr => ?_⟩
  · rw [decodeWord_eq_ok_iff.1 hi]
    exact accepting_row_of_encode i
  · by_contra hacc
    obtain ⟨i, rfl⟩ := eq_encode_of_accepts hr (Bool.eq_true_of_not_eq_false hacc)
    simp [decodeWord_encode] at he

/-! ### The illegal words by their number (R70, R71) -/

theorem toNat_opField (w : Byte) : (opField w).toNat = w.toNat / 16 := by
  simp only [opField, BitVec.extractLsb'_toNat, Nat.shiftRight_eq_div_pow]
  omega

theorem toNat_argField (w : Byte) : (argField w).toNat = w.toNat % 16 := by
  simp [argField]

/-- A test of the argument refuses exactly when it fails, and by that reason. -/
theorem argTest_eq_error_iff {p : Prop} [Decidable p] {i : Instr} {e : DecodeError} :
    (if p then Except.ok i else .error .argumentBits) = .error e ↔ e = .argumentBits ∧ ¬ p := by
  split <;> simp_all [eq_comm (b := e)]

/-- The test of a micro-operation without an operand: the whole argument is 0. -/
theorem noArg_eq_error_iff {w : Byte} {i : Instr} {e : DecodeError} :
    noArg w i = .error e ↔ e = .argumentBits ∧ ¬ w.toNat % 16 = 0 := by
  rw [noArg, argTest_eq_error_iff, ← BitVec.toNat_inj, toNat_argField]
  rfl

/-- The test of a micro-operation with an operand of `k` bits: the bits above the operand are 0. -/
theorem argField_high_eq_zero_iff {w : Byte} {k n : Nat} (hn : k + n = 4) :
    (argField w).extractLsb' k n = 0 ↔ w.toNat % 16 < 2 ^ k := by
  have hlt : w.toNat % 16 / 2 ^ k < 2 ^ n := Nat.div_lt_of_lt_mul (by rw [← Nat.pow_add, hn]; omega)
  rw [← BitVec.toNat_inj, BitVec.extractLsb'_toNat, toNat_argField, Nat.shiftRight_eq_div_pow, Nat.mod_eq_of_lt hlt]
  exact Nat.div_eq_zero_iff_lt (Nat.two_pow_pos k)

/-- The operation codes 0xB..0xF are unassigned (R70). -/
theorem decodeWord_of_unassigned {w : Byte} (h : 0xB0 ≤ w.toNat) : decodeWord w = .error .unassignedOp := by
  have hop := toNat_opField w
  unfold decodeWord
  split
  case h_12 => rfl
  all_goals omega

/-- Under an assigned operation code a word is refused for its argument only; the nonzero arguments admitted are those of
SEL, RD10 and USIN8 (R67). -/
theorem decodeWord_eq_error_iff_of_assigned {w : Byte} {e : DecodeError} (h : w.toNat < 0xB0) :
    decodeWord w = .error e ↔
      e = .argumentBits ∧ w.toNat % 16 ≠ 0 ∧ w.toNat ∉ [0x01, 0x02, 0x03, 0x41, 0x61] := by
  have hop := toNat_opField w
  unfold decodeWord
  split
  case h_12 => -- the decoder's default needs an operation code from 0xB up
    simp only [imp_false] at *
    omega
  all_goals
    simp only [noArg_eq_error_iff, argTest_eq_error_iff, argField_high_eq_zero_iff, List.mem_cons,
      List.not_mem_nil, or_false]
    exact and_congr_right fun _ => by omega

/-- Settles O4: the two ranges of operation codes, each with its one reason. -/
theorem illegalWordsAreNamed : Obligations.IllegalWordsAreNamed := by
  intro w
  obtain h | h := Nat.lt_or_ge w.toNat 0xB0
  · simp [decodeWord_eq_error_iff_of_assigned h, h]
  · simp [decodeWord_of_unassigned h, h]

/-! ### Sequences that hold an illegal word (R71) -/

theorem legalWord_eq_false_iff {w : Byte} : legalWord w = false ↔ ∃ e, decodeWord w = .error e := by
  unfold legalWord
  cases decodeWord w <;> simp

/-- The illegal words by number, whatever the reason. -/
theorem legalWord_eq_false_iff_toNat (w : Byte) : legalWord w = false ↔
    0xB0 ≤ w.toNat ∨ (w.toNat % 16 ≠ 0 ∧ w.toNat ∉ [0x01, 0x02, 0x03, 0x41, 0x61]) := by
  rw [legalWord_eq_false_iff]
  obtain h | h := Nat.lt_or_ge w.toNat 0xB0
  · simp [decodeWord_eq_error_iff_of_assigned h, Nat.not_le.2 h]
  · simp [decodeWord_of_unassigned h, h]

end Sys2Proof

namespace Sys2Proof.Machine

/-- A fetch from a sequence that holds an illegal word is refused, whatever SEQ is. -/
theorem fetch_of_illegalWord {s : State} {w : Byte} (hw : w ∈ s.uop) (hl : legalWord w = false) :
    fetch s = .refused .illegalUop := by
  have hall : s.uop.all legalWord = false := List.all_eq_false.2 ⟨w, hw, by simp [hl]⟩
  simp [fetch, hall]

/-- Settles O20: the illegal words by number, and the fetch that refuses a sequence with one of them. -/
theorem illegalSequenceRefused : Obligations.IllegalSequenceRefused := by
  refine ⟨legalWord_eq_false_iff_toNat, fun s f w hm hw hl => ?_⟩
  simp [step, hm, fetch_of_illegalWord hw hl]

end Sys2Proof.Machine
end

section
/-! The Sine Approximator (40_sine.md): the bit-only loop as a multiplication (R84, R85), one closed form of the square for both
its forms (R82, R86), the two sines as half waves of one parabola (R87 to R90), and the settlements of O11, O12 and O32 to
O35. -/

namespace Sys2Proof.Machine

/-! ### Patterns read about 128 (R83, R84) -/

/-- R83: adding 128 modulo 256 flips bit 7 and nothing else. -/
theorem add_128_eq_xor (x : BitVec 8) : x + 128 = x ^^^ 0x80 := by
  revert x
  decide

/-- The signed reading of a pattern with bit 7 flipped is its unsigned reading less 128. -/
theorem toInt_add_128 (x : BitVec 8) : (x + 128).toInt = x.toNat - 128 := by
  have ht : (x + 128).toNat = (x.toNat + 128) % 256 := BitVec.toNat_add x 128
  rw [BitVec.toInt_eq_toNat_cond, ht]
  omega

/-- The signed reading of a complement. -/
theorem toInt_complement (x : BitVec 8) : (~~~x).toInt = -1 - x.toInt := by
  rw [BitVec.toInt_eq_toNat_cond, BitVec.toInt_eq_toNat_cond, BitVec.toNat_not]
  omega

/-- The magnitude is the distance of the pattern from 128. -/
theorem magnitude_toNat (x : BitVec 8) : (magnitude x).toNat = ((x.toNat : Int) - 128).natAbs := by
  have ht : (x + 128).toNat = (x.toNat + 128) % 256 := BitVec.toNat_add x 128
  have hneg : (0 - (x + 128)).toNat = (256 - (x + 128).toNat + 0) % 256 := BitVec.toNat_sub 0 (x + 128)
  simp only [magnitude]
  split <;> omega

/-- The magnitude is the absolute value of R82's s. -/
theorem magnitude_eq_natAbs (x : BitVec 8) : (magnitude x).toNat = (x ^^^ 0x80).toInt.natAbs := by
  rw [← add_128_eq_xor, toInt_add_128, magnitude_toNat]

theorem magnitude_eq_128_iff (x : BitVec 8) : (magnitude x).toNat = 128 ↔ x = 0 := by
  rw [magnitude_toNat, ← BitVec.toNat_inj]
  change _ ↔ x.toNat = 0
  omega

theorem magnitude_le (x : BitVec 8) : (magnitude x).toNat ≤ 128 := by
  rw [magnitude_toNat]
  omega

theorem magnitude_sq_le (x : BitVec 8) : (magnitude x).toNat ^ 2 ≤ 16384 := Nat.pow_le_pow_left (magnitude_le x) 2

/-! ### One pass of the bit-only loop (R84) -/

/-- The 9-bit sum of R84 in two parts: the carry is its bit 8, the pattern the rest. -/
theorem addWithCarryOut_toNat (a m : BitVec 8) :
    (addWithCarryOut a m).1.toNat * 256 + (addWithCarryOut a m).2.toNat = a.toNat + m.toNat := by
  simp only [addWithCarryOut, ← BitVec.testBit_toNat, Nat.testBit_eq_decide_div_mod_eq, Bool.toNat, Bool.cond_decide,
    BitVec.toNat_add, BitVec.toNat_setWidth]
  split <;> omega

/-- What a pass shifts down into A: A, with M added when Q[0] is 1. -/
def Scratch.sum (r : Scratch) : Nat := r.a.toNat + r.q.toNat % 2 * r.m.toNat

theorem Scratch.sum_le (r : Scratch) : r.sum ≤ r.a.toNat + r.m.toNat :=
  Nat.add_le_add_left (mul_le_of_le_one_left (Nat.zero_le _) (by omega)) _

/-- The number in {A, Q}. -/
def Scratch.product (r : Scratch) : Nat := r.a.toNat * 256 + r.q.toNat

/-- A right shift by one that takes in a bit at the top. -/
theorem toNat_shiftIn (b : BitVec 1) (x : BitVec 8) :
    (b ++ x.extractLsb' 1 7 : BitVec 8).toNat = b.toNat * 128 + x.toNat / 2 := by
  rw [BitVec.toNat_append, ← Nat.shiftLeft_add_eq_or_of_lt (BitVec.isLt _), Nat.shiftLeft_eq, BitVec.extractLsb'_toNat,
    Nat.shiftRight_eq_div_pow]
  omega

/-- A pass is the shift by one of a carry and a pattern that together are the sum. -/
theorem Scratch.pass_eq (r : Scratch) : ∃ (c : Bool) (a : BitVec 8), c.toNat * 256 + a.toNat = r.sum ∧
    r.pass = { m := r.m, a := BitVec.ofBool c ++ a.extractLsb' 1 7, q := a.extractLsb' 0 1 ++ r.q.extractLsb' 1 7, c := c
               cnt := r.cnt + 1 } := by
  refine ⟨_, _, ?_, rfl⟩
  have hq : r.q.getLsbD 0 = decide (r.q.toNat % 2 = 1) := by rw [← BitVec.testBit_toNat, Nat.testBit_zero]
  rw [Scratch.sum, hq]
  obtain h | h := Nat.mod_two_eq_zero_or_one r.q.toNat
  · simp [h]
  · simp [h, addWithCarryOut_toNat]

/-- The carry is 0 when the sum fits 8 bits. -/
theorem Scratch.pass_c {r : Scratch} (h : r.sum < 256) : r.pass.c = false := by
  obtain ⟨c, a, hs, hp⟩ := r.pass_eq
  rw [hp]
  cases c with
  | false => rfl
  | true => rw [Bool.toNat_true] at hs; omega

theorem Scratch.pass_a (r : Scratch) : r.pass.a.toNat = r.sum / 2 := by
  obtain ⟨c, a, hs, hp⟩ := r.pass_eq
  rw [hp, toNat_shiftIn, BitVec.toNat_ofBool]
  omega

theorem Scratch.pass_q (r : Scratch) : r.pass.q.toNat = r.sum % 2 * 128 + r.q.toNat / 2 := by
  obtain ⟨c, a, hs, hp⟩ := r.pass_eq
  rw [hp, toNat_shiftIn, BitVec.extractLsb'_toNat, Nat.shiftRight_zero]
  omega

/-- Multiplication, one bit of the multiplier at a time. -/
theorem Scratch.pass_product (r : Scratch) :
    r.pass.product = (r.product + r.product % 2 * (r.m.toNat * 256)) / 2 := by
  have hodd : r.product % 2 = r.q.toNat % 2 := by simp only [Scratch.product]; omega
  rw [hodd, Scratch.product, Scratch.product, Scratch.pass_a, Scratch.pass_q, Scratch.sum, ← mul_assoc]
  omega

/-! ### The loop's invariant (R85) -/

theorem passes_m (x : BitVec 8) (n : Nat) : (Scratch.passes n (Scratch.start x)).m = magnitude x := by
  induction n with
  | zero => rfl
  | succ n ih => exact ih

theorem passes_cnt (x : BitVec 8) (n : Nat) : (Scratch.passes n (Scratch.start x)).cnt = BitVec.ofNat 4 n := by
  induction n with
  | zero => rfl
  | succ n ih =>
    calc (Scratch.passes (n + 1) (Scratch.start x)).cnt = (Scratch.passes n (Scratch.start x)).cnt + 1 := rfl
      _ = BitVec.ofNat 4 (n + 1) := by rw [ih, BitVec.ofNat_add]; rfl

/-- The arithmetic of R85's step: pass `n` of `n + k + 1 = 8` moves bit `n` of the multiplier into the product. -/
theorem shiftAdd_step (m : Nat) {n k : Nat} (hnk : n + k = 7) :
    (m * (m % 2 ^ n) * 2 ^ (k + 1) + m / 2 ^ n + (m * (m % 2 ^ n) * 2 ^ (k + 1) + m / 2 ^ n) % 2 * (m * 256)) / 2 =
      m * (m % 2 ^ (n + 1)) * 2 ^ k + m / 2 ^ (n + 1) := by
  have h256 : 256 = 2 * (2 ^ n * 2 ^ k) := by rw [← Nat.pow_add, hnk]
  have hdouble : m * (m % 2 ^ n) * 2 ^ (k + 1) = 2 * (m * (m % 2 ^ n) * 2 ^ k) := by ring
  have hbit : (m * (m % 2 ^ n) * 2 ^ (k + 1) + m / 2 ^ n) % 2 = m / 2 ^ n % 2 := by omega
  have hadd : m / 2 ^ n % 2 * (m * 256) = 2 * (m * (2 ^ n * (m / 2 ^ n % 2)) * 2 ^ k) := by rw [h256]; ring
  rw [hbit, hadd, hdouble, Nat.mod_pow_succ, Nat.mul_add, Nat.add_mul, Nat.pow_succ, ← Nat.div_div_eq_div_mul]
  omega

/-- R85, the product: the low `n` bits of the multiplier are multiplied, the rest still stands in Q. -/
theorem passes_product (x : BitVec 8) {n : Nat} (hn : n ≤ 8) :
    (Scratch.passes n (Scratch.start x)).product =
      (magnitude x).toNat * ((magnitude x).toNat % 2 ^ n) * 2 ^ (8 - n) + (magnitude x).toNat / 2 ^ n := by
  induction n with
  | zero => simp [Scratch.passes, Scratch.start, Scratch.product, Nat.mod_one]
  | succ n ih =>
    rw [Scratch.passes, Scratch.pass_product, passes_m, ih (by omega), show 8 - n = 7 - n + 1 by omega,
      show 8 - (n + 1) = 7 - n by omega]
    exact shiftAdd_step (magnitude x).toNat (by omega)

/-- R85, the accumulator: below M, or M is 0. -/
theorem passes_a_lt (x : BitVec 8) (n : Nat) :
    (Scratch.passes n (Scratch.start x)).a.toNat < (magnitude x).toNat ∨ (magnitude x).toNat = 0 := by
  induction n with
  | zero => exact (Nat.eq_zero_or_pos _).symm
  | succ n ih =>
    have hsum := (Scratch.passes n (Scratch.start x)).sum_le
    rw [passes_m] at hsum
    rw [Scratch.passes, Scratch.pass_a]
    omega

/-- The accumulator is small enough for the next add, whatever the number of passes. -/
theorem passes_sum_lt (x : BitVec 8) (n : Nat) : (Scratch.passes n (Scratch.start x)).sum < 256 := by
  have hsum := (Scratch.passes n (Scratch.start x)).sum_le
  rw [passes_m] at hsum
  have ha := passes_a_lt x n
  have hm := magnitude_le x
  omega

/-- R85, the carry: never set. -/
theorem passes_c (x : BitVec 8) (n : Nat) : (Scratch.passes n (Scratch.start x)).c = false := by
  cases n with
  | zero => rfl
  | succ n => exact Scratch.pass_c (passes_sum_lt x n)

/-- After the eighth pass the product is the square of the magnitude. -/
theorem passes_eight_product (x : BitVec 8) :
    (Scratch.passes 8 (Scratch.start x)).product = (magnitude x).toNat ^ 2 := by
  have hm := magnitude_le x
  rw [passes_product x (Nat.le_refl 8), Nat.mod_eq_of_lt (by omega), Nat.div_eq_of_lt (by omega)]
  ring

/-- R85: the accumulator is small enough for the shift that follows the loop. -/
theorem passes_eight_a_le (x : BitVec 8) : (Scratch.passes 8 (Scratch.start x)).a.toNat ≤ 0x40 := by
  have hp := passes_eight_product x
  have hm := magnitude_sq_le x
  rw [Scratch.product] at hp
  omega

/-! ### The square in closed form, for both its forms (R82, R86) -/

/-- The result bits of R84, 14:7 of {A, Q}. -/
theorem toNat_resultBits (a q : BitVec 8) :
    ((a <<< 1) ||| (q.extractLsb' 7 1).setWidth 8).toNat = (a.toNat * 256 + q.toNat) / 128 % 256 := by
  have hhigh : (a <<< 1).toNat = (a.toNat % 128) <<< 1 := by
    rw [BitVec.toNat_shiftLeft, Nat.shiftLeft_eq, Nat.shiftLeft_eq]
    omega
  have hlow : ((q.extractLsb' 7 1).setWidth 8).toNat = q.toNat / 128 := by
    rw [BitVec.toNat_setWidth, BitVec.extractLsb'_toNat, Nat.shiftRight_eq_div_pow]
    omega
  rw [BitVec.toNat_or, hhigh, hlow, ← Nat.shiftLeft_add_eq_or_of_lt (by omega), Nat.shiftLeft_eq]
  omega

theorem sq8b_toNat (x : BitVec 8) : (sq8b x).toNat = 255 - (magnitude x).toNat ^ 2 / 128 := by
  have hm := magnitude_sq_le x
  have hr : _ = (Scratch.product _) / 128 % 256 :=
    toNat_resultBits (Scratch.passes 8 (Scratch.start x)).a (Scratch.passes 8 (Scratch.start x)).q
  rw [passes_eight_product, Nat.mod_eq_of_lt (by omega)] at hr
  rw [sq8b, BitVec.toNat_not, hr]

theorem sq8m_toNat (x : BitVec 8) : (sq8m x).toNat = 255 - (magnitude x).toNat ^ 2 / 128 := by
  have hm := magnitude_sq_le x
  have hs : (x + 128).toInt * (x + 128).toInt = ((magnitude x).toNat ^ 2 : Nat) := by
    rw [toInt_add_128, magnitude_toNat, Nat.cast_pow, Int.natAbs_sq, sq]
  have hq : trunc 8 (shiftRight ((magnitude x).toNat ^ 2 : Nat) 7) = BitVec.ofNat 8 ((magnitude x).toNat ^ 2 / 128) := by
    rw [trunc, shiftRight, ← BitVec.ofInt_natCast]; rfl
  rw [sq8m, sext, hs, hq, BitVec.toNat_not, BitVec.toNat_ofNat]
  omega

theorem sq8_toNat (impl : SqImpl) (x : BitVec 8) : (sq8 impl x).toNat = 255 - (magnitude x).toNat ^ 2 / 128 := by
  cases impl with
  | mul => exact sq8m_toNat x
  | bitOnly => exact sq8b_toNat x

/-- Settles O32: both forms are the one closed form, and the loop's invariant part by part. -/
theorem bitOnlySquareIsTheSquare : Obligations.BitOnlySquareIsTheSquare := by
  refine ⟨fun x => BitVec.eq_of_toNat_eq ((sq8b_toNat x).trans (sq8m_toNat x).symm), fun x n hn => ?_⟩
  refine ⟨passes_product x hn, passes_c x n, passes_a_lt x n, ?_, passes_m x n, ?_⟩
  · rintro rfl
    exact passes_eight_a_le x
  · rw [passes_cnt, BitVec.toNat_ofNat]
    omega

theorem sq8_eq_127_iff (impl : SqImpl) (x : BitVec 8) : (sq8 impl x).toNat = 127 ↔ x = 0 := by
  have hle := magnitude_le x
  rw [sq8_toNat, ← magnitude_eq_128_iff]
  constructor
  · intro h
    by_contra hne
    have hsq : (magnitude x).toNat ^ 2 ≤ 127 ^ 2 := Nat.pow_le_pow_left (by omega) 2
    omega
  · intro h
    simp [h]

theorem sq8_le_of_magnitude_le (impl : SqImpl) {x y : BitVec 8} (h : (magnitude x).toNat ≤ (magnitude y).toNat) :
    (sq8 impl y).toNat ≤ (sq8 impl x).toNat := by
  rw [sq8_toNat, sq8_toNat]
  exact Nat.sub_le_sub_left (Nat.div_le_div_right (Nat.pow_le_pow_left h 2)) 255

/-- On the plateau the square is less than one step of the shift. -/
theorem sq8_eq_255_of_magnitude_le (impl : SqImpl) {x : BitVec 8} (h : (magnitude x).toNat ≤ 11) :
    (sq8 impl x).toNat = 255 := by
  have hsq : (magnitude x).toNat ^ 2 ≤ 11 ^ 2 := Nat.pow_le_pow_left h 2
  rw [sq8_toNat]
  omega

theorem sq8_toNat_cast (impl : SqImpl) (x : BitVec 8) :
    ((sq8 impl x).toNat : Int) = 255 - ((x.toNat : Int) - 128) ^ 2 / 128 := by
  have hm := magnitude_sq_le x
  rw [sq8_toNat, Nat.cast_sub (by omega), Int.natCast_ediv, Nat.cast_pow, magnitude_toNat, Int.natAbs_sq]
  rfl

/-- Settles O33: the closed form in the magnitude, which is |s|, and what it says of the ends and of the order. -/
theorem squareClosedForm : Obligations.SquareClosedForm := by
  intro impl x
  simp only [← magnitude_eq_natAbs, sq8_eq_127_iff, true_and]
  refine ⟨?_, ?_, sq8_eq_255_of_magnitude_le impl, fun y => sq8_le_of_magnitude_le impl⟩
  · rw [sq8_toNat_cast, ← add_128_eq_xor, toInt_add_128]
  · have hm := magnitude_sq_le x
    rw [sq8_toNat]
    omega

/-! ### The two sines (R87 to R90) -/

theorem sin8_eq_usin8_add (impl : SqImpl) (a : Angle) : sin8 impl a = usin8 impl a + 128 := rfl

/-- Settles O35: the sines differ by 128 modulo 256, which is a flip of bit 7 and undoes itself. -/
theorem unsignedSineIsOffsetBinary : Obligations.UnsignedSineIsOffsetBinary := by
  intro impl a
  have hs : sin8 impl a = usin8 impl a ^^^ 0x80 := by rw [sin8_eq_usin8_add, add_128_eq_xor]
  have hu : usin8 impl a = sin8 impl a ^^^ 0x80 := by rw [hs, BitVec.xor_assoc, BitVec.xor_self, BitVec.xor_zero]
  exact ⟨hu, hs, hu.trans (add_128_eq_xor _).symm, rfl, rfl⟩

/-- The doubled angle, squared: R82's closed form with the half wave's own variable. -/
theorem sq8_doubled (impl : SqImpl) (a : Angle) :
    ((sq8 impl (a <<< 1)).toNat : Int) = 255 - ((a.toNat % 128 : Nat) - 64 : Int) ^ 2 / 32 := by
  have hx : ((a <<< 1).toNat : Int) - 128 = 2 * ((a.toNat % 128 : Nat) - 64 : Int) := by
    rw [BitVec.toNat_shiftLeft, Nat.shiftLeft_eq]
    omega
  rw [sq8_toNat_cast, hx, mul_pow]
  omega

/-- R89, the first half wave. -/
theorem usin8_first_half (impl : SqImpl) {a : Angle} (h : a.toNat < 128) :
    ((usin8 impl a).toNat : Int) = 255 - ((a.toNat : Int) - 64) ^ 2 / 32 := by
  have htop : a.getLsbD 7 = false := by
    rw [← BitVec.testBit_toNat, Nat.testBit_eq_false_of_lt h]
  have hsq := sq8_doubled impl a
  rw [Nat.mod_eq_of_lt h] at hsq
  simpa only [usin8, htop, Bool.false_eq_true, if_false] using hsq

/-- R89, the second half wave: the complement. -/
theorem usin8_second_half (impl : SqImpl) {a : Angle} (h : 128 ≤ a.toNat) :
    ((usin8 impl a).toNat : Int) = ((a.toNat : Int) - 192) ^ 2 / 32 := by
  have htop : a.getLsbD 7 = true := by
    rw [← BitVec.testBit_toNat, Nat.testBit_eq_decide_div_mod_eq, decide_eq_true_eq]
    omega
  have hd : ((a.toNat % 128 : Nat) - 64 : Int) = a.toNat - 192 := by omega
  have hsq := sq8_doubled impl a
  rw [hd] at hsq
  simp only [usin8, htop, if_true, BitVec.toNat_not]
  omega

theorem sin8_toInt (impl : SqImpl) (a : Angle) : (sin8 impl a).toInt = (usin8 impl a).toNat - 128 := by
  rw [sin8_eq_usin8_add, toInt_add_128]

/-- R88 around the crest: `d` is the angle's distance from 64. -/
theorem sin8_crest (impl : SqImpl) {a : Angle} {d : Int} (ha : a.toNat = 64 + d) (hd : d < 64) :
    (sin8 impl a).toInt = 127 - d ^ 2 / 32 := by
  rw [sin8_toInt, usin8_first_half impl (by omega), ha, add_sub_cancel_left]
  omega

/-- R88 around the trough: `d` is the angle's distance from 192. -/
theorem sin8_trough (impl : SqImpl) {a : Angle} {d : Int} (ha : a.toNat = 192 + d) (hd : -64 ≤ d) :
    (sin8 impl a).toInt = -128 + d ^ 2 / 32 := by
  rw [sin8_toInt, usin8_second_half impl (by omega), ha, add_sub_cancel_left]
  omega

/-- Every angle lies in one of the two half waves, at a distance of at most 64 from its middle. -/
theorem angle_halfWave (a : Angle) :
    ∃ d : Int, -64 ≤ d ∧ d < 64 ∧ ((a.toNat : Int) = 64 + d ∨ (a.toNat : Int) = 192 + d) := by
  obtain h | h := Nat.lt_or_ge a.toNat 128
  · exact ⟨a.toNat - 64, by omega, by omega, by omega⟩
  · exact ⟨a.toNat - 192, by omega, by omega, by omega⟩

theorem sin8_closedForm (impl : SqImpl) (a : Angle) : (sin8 impl a).toInt =
    if a.toNat < 128 then 127 - ((a.toNat : Int) - 64) ^ 2 / 32 else -128 + ((a.toNat : Int) - 192) ^ 2 / 32 := by
  split
  · exact sin8_crest impl (by omega) (by omega)
  · exact sin8_trough impl (by omega) (by omega)

theorem usin8_closedForm (impl : SqImpl) (a : Angle) : ((usin8 impl a).toNat : Int) =
    if a.toNat < 128 then 255 - ((a.toNat : Int) - 64) ^ 2 / 32 else ((a.toNat : Int) - 192) ^ 2 / 32 := by
  split
  · exact usin8_first_half impl (by omega)
  · exact usin8_second_half impl (by omega)

/-! ### The laws of the signed sine (R88) -/

/-- The parabola is flat up to 5 from its vertex. -/
theorem sq_div_32_eq_zero_iff {d : Int} : d ^ 2 / 32 = 0 ↔ -5 ≤ d ∧ d ≤ 5 := by
  have h0 := sq_nonneg d
  constructor
  · intro h
    have hlt : d ^ 2 < 6 ^ 2 := by omega
    have := abs_lt.1 (abs_lt_of_sq_lt_sq hlt (by decide))
    omega
  · rintro ⟨hlo, hhi⟩
    have hle : d ^ 2 ≤ 5 ^ 2 := sq_le_sq' hlo hhi
    omega

theorem sq_div_32_le {d : Int} (hlo : -64 ≤ d) (hhi : d < 64) : d ^ 2 / 32 ≤ 128 := by
  have hle : d ^ 2 ≤ 64 ^ 2 := sq_le_sq' hlo hhi.le
  omega

theorem sin8_eq_127_iff (impl : SqImpl) (a : Angle) : (sin8 impl a).toInt = 127 ↔ 59 ≤ a.toNat ∧ a.toNat ≤ 69 := by
  obtain ⟨d, hlo, hhi, ha | ha⟩ := angle_halfWave a
  · have hflat := sq_div_32_eq_zero_iff (d := d)
    rw [sin8_crest impl ha hhi]
    omega
  · have hle := sq_div_32_le hlo hhi
    rw [sin8_trough impl ha hlo]
    omega

theorem sin8_eq_neg_128_iff (impl : SqImpl) (a : Angle) :
    (sin8 impl a).toInt = -128 ↔ 187 ≤ a.toNat ∧ a.toNat ≤ 197 := by
  obtain ⟨d, hlo, hhi, ha | ha⟩ := angle_halfWave a
  · have hle := sq_div_32_le hlo hhi
    rw [sin8_crest impl ha hhi]
    omega
  · have hflat := sq_div_32_eq_zero_iff (d := d)
    rw [sin8_trough impl ha hlo]
    omega

/-- Half a period on, a crest is a trough. -/
theorem sin8_add_half (impl : SqImpl) (a : Angle) : (sin8 impl (a + 128)).toInt = -1 - (sin8 impl a).toInt := by
  have hn : (a + 128).toNat = (a.toNat + 128) % 256 := BitVec.toNat_add a 128
  obtain ⟨d, hlo, hhi, ha | ha⟩ := angle_halfWave a
  · rw [sin8_trough impl (d := d) (by omega) hlo, sin8_crest impl ha hhi]
    omega
  · rw [sin8_crest impl (d := d) (by omega) hhi, sin8_trough impl ha hlo]
    omega

/-- A half wave is symmetric about the crest. -/
theorem sin8_reflect_crest (impl : SqImpl) {a b : Angle} (hsum : a.toNat + b.toNat = 128) (ha : 1 ≤ a.toNat)
    (hb : 1 ≤ b.toNat) : sin8 impl b = sin8 impl a := by
  obtain ⟨d, hd⟩ : ∃ d : Int, (a.toNat : Int) = 64 + d := ⟨a.toNat - 64, by omega⟩
  apply BitVec.eq_of_toInt_eq
  rw [sin8_crest impl (d := -d) (by omega) (by omega), sin8_crest impl hd (by omega), neg_sq]

/-- A half wave is symmetric about the trough. -/
theorem sin8_reflect_trough (impl : SqImpl) {a b : Angle} (hsum : a.toNat + b.toNat = 384) :
    sin8 impl b = sin8 impl a := by
  obtain ⟨d, hd⟩ : ∃ d : Int, (a.toNat : Int) = 192 + d := ⟨a.toNat - 192, by omega⟩
  apply BitVec.eq_of_toInt_eq
  rw [sin8_trough impl (d := -d) (by omega) (by omega), sin8_trough impl hd (by omega), neg_sq]

/-- Reflecting an angle changes the sine only at the two zero crossings. -/
theorem sin8_reflect (impl : SqImpl) {a : Angle} (h0 : a ≠ 0) (h128 : a ≠ 128) : sin8 impl (128 - a) = sin8 impl a := by
  have hn : (128 - a).toNat = (256 - a.toNat + 128) % 256 := BitVec.toNat_sub 128 a
  have h0' : a.toNat ≠ 0 := fun h => h0 (BitVec.eq_of_toNat_eq h)
  have h128' : a.toNat ≠ 128 := fun h => h128 (BitVec.eq_of_toNat_eq h)
  obtain h | h := Nat.lt_or_ge a.toNat 128
  · exact sin8_reflect_crest impl (by omega) (by omega) (by omega)
  · exact sin8_reflect_trough impl (by omega)

/-- The negated angle is the reflected one, half a period on. -/
theorem sin8_neg (impl : SqImpl) {a : Angle} (h0 : a ≠ 0) (h128 : a ≠ 128) :
    (sin8 impl (-a)).toInt = -1 - (sin8 impl a).toInt := by
  have hneg : -a = 128 - a + 128 := by bv_omega
  rw [hneg, sin8_add_half, sin8_reflect impl h0 h128]

/-- Settles O34: the laws above, each a reading of the parabola around the crest or the trough. -/
theorem signedSineLaws : Obligations.SignedSineLaws := by
  intro impl
  refine ⟨sin8_closedForm impl, (sin8_closedForm impl 0).trans (by decide), (sin8_closedForm impl 64).trans (by decide),
    (sin8_closedForm impl 128).trans (by decide), (sin8_closedForm impl 192).trans (by decide), sin8_eq_127_iff impl,
    sin8_eq_neg_128_iff impl, fun a => ⟨?_, sin8_add_half impl a⟩, fun a hlo hhi => ?_, fun a hlo => ?_,
    fun a => sin8_neg impl⟩
  · exact BitVec.eq_of_toInt_eq ((sin8_add_half impl a).trans (toInt_complement _).symm)
  · have hn : (128 - a).toNat = (256 - a.toNat + 128) % 256 := BitVec.toNat_sub 128 a
    exact sin8_reflect_crest impl (by omega) hlo (by omega)
  · exact sin8_reflect_trough impl (by rw [BitVec.toNat_ofNat]; omega)

/-! ### The micro-operations (R87, R89, R130) -/

theorem toNat_angleOf (p : Phase) : (angleOf p).toNat = p.toNat / 256 := by
  rw [angleOf, BitVec.extractLsb'_toNat, Nat.shiftRight_eq_div_pow]
  omega

/-- Settles O11: what SIN8 writes is the pattern of its signed reading, which R88 gives. -/
theorem sin8WritesSignedSine : Obligations.Sin8WritesSignedSine := by
  refine ⟨rfl, fun s hq => execSin8_eq_next.2 ⟨hq, ?_⟩⟩
  rw [← toNat_angleOf, ← sin8_closedForm s.params.sqImpl, BitVec.ofInt_toInt]

/-- Settles O12: what USIN8 writes is the pattern of its unsigned reading, which R89 gives. -/
theorem usin8WritesUnsignedSine : Obligations.Usin8WritesUnsignedSine := by
  refine ⟨rfl, fun s hq => execUsin8_eq_next.2 ⟨hq, ?_⟩⟩
  rw [← toNat_angleOf, ← usin8_closedForm s.params.sqImpl, BitVec.ofInt_natCast, BitVec.ofNat_toNat, BitVec.setWidth_eq]

end Sys2Proof.Machine
end

section
/-! Sample acquisition (41_sampling.md R100 to R105): the settlements of O5 to O10, each by the meaning's `_eq_next` lemma
where the micro-operation completes or is held, and by its `_eq_refused` lemma where it is refused. -/

namespace Sys2Proof.Machine

/-- The word of SEL is its channel number: the operation code and the two upper bits of the argument are 0 (R67, R69). -/
theorem toNat_encode_sel (ch : Channel) : (encode (.sel ch)).toNat = ch.toNat :=
  calc (word 0 (0#2 ++ ch)).toNat
    _ = 0 <<< 4 ||| (0#2 ++ ch : BitVec 4).toNat := BitVec.toNat_append 0#4 (0#2 ++ ch)
    _ = 0 <<< 4 ||| (0 <<< 2 ||| ch.toNat) := congrArg (0 <<< 4 ||| ·) (BitVec.toNat_append 0#2 ch)
    _ = ch.toNat := by simp only [Nat.zero_shiftLeft, Nat.zero_or]

/-- Settles O5: the collaborator admits the call exactly when no conversion is in flight. -/
theorem selSelectsChannel : Obligations.SelSelectsChannel := fun ch _ =>
  ⟨toNat_encode_sel ch, fun hc hq => execSel_eq_next.2 ⟨hc, hq, rfl⟩,
    fun hc => execSel_eq_refused.2 (.inl ⟨hc, rfl⟩)⟩

/-- Settles O6: the two reasons are apart by whether a channel is selected. -/
theorem convStartsConversion : Obligations.ConvStartsConversion := by
  refine ⟨rfl, fun s => ⟨?completes, ?noChannel, ?inFlight⟩⟩
  case completes => exact fun hch hc hq => execConv_eq_next.2 ⟨hch, hc, hq, rfl⟩
  case noChannel => exact fun hch => execConv_eq_refused.2 (.inl (.inl ⟨hch, rfl⟩))
  case inFlight => exact fun hch hc => execConv_eq_refused.2 (.inl (.inr ⟨hch, hc, rfl⟩))

/-- The environment lets a running delay elapse exactly by its delay-done strobe (R102, R163). -/
theorem hold_envFinish_of_sleeping {s : State} (h : s.hold = .sleeping) (f : Finish) :
    (envFinish f s).hold = if f.delay then .slept else .sleeping := by
  rw [envFinish_hold, h, Hold.finish]

/-- Settles O7: the call, the hold and the advance are the three branches of DLY; between them the environment moves. -/
theorem dlySleepsThenAdvances : Obligations.DlySleepsThenAdvances := by
  refine ⟨rfl, fun s => ⟨?call, ?held, hold_envFinish_of_sleeping, ?completes⟩⟩
  case call => exact fun hh => execDly_eq_next.2 (.inl ⟨hh, rfl⟩)
  case held => exact fun hh => execDly_eq_next.2 (.inr (.inl ⟨.inl hh, rfl⟩))
  case completes => exact fun hh hq => execDly_eq_next.2 (.inr (.inr ⟨hh, hq, rfl⟩))

/-- Settles O8: one branch of WAIT for each state of the conversion. -/
theorem waitPassesOnlyWhenDone : Obligations.WaitPassesOnlyWhenDone := by
  refine ⟨rfl, fun s => ⟨?done, ?busy, ?idle⟩⟩
  case done => exact fun hc hq => execWait_eq_next.2 (.inl ⟨hc, hq, rfl⟩)
  case busy => exact fun hc => execWait_eq_next.2 (.inr ⟨hc, rfl⟩)
  case idle => exact fun hc => execWait_eq_refused.2 (.inl ⟨hc, rfl⟩)

/-- Settles O9: the sample written is the converter's answer, and the operand only names the register. -/
theorem rd10StoresTheAnswer : Obligations.Rd10StoresTheAnswer := by
  refine ⟨rfl, rfl, ?_⟩
  rintro s _ rfl
  refine ⟨fun hc hq => ⟨?offset, ?speed⟩, fun hc d => ?refused⟩
  case offset => exact execRd10_eq_next.2 ⟨hc, hq, rfl⟩
  case speed => exact execRd10_eq_next.2 ⟨hc, hq, rfl⟩
  case refused => exact execRd10_eq_refused.2 (.inl ⟨hc, rfl⟩)

/-- Settles O10: the sample written is the converter's answer. -/
theorem rd8StoresTheAnswer : Obligations.Rd8StoresTheAnswer := by
  refine ⟨rfl, ?_⟩
  rintro s _ rfl
  exact ⟨fun hc hq => execRd8_eq_next.2 ⟨hc, hq, rfl⟩, fun hc => execRd8_eq_refused.2 (.inl ⟨hc, rfl⟩)⟩

end Sys2Proof.Machine
end

section
/-! The pulse width (42_pulse_width.md): the sum of R121 to R123 in numbers, its range and where it is extreme (R124), when
it wraps and when it is safe (R125), the source's own properties (R126), the safe trace (R190), and the settlements of O13,
O36 to O39 and O54. -/

namespace Sys2Proof.Machine

/-! ### PWCALC (R120, R123) -/

/-- Settles O13: the sum in the statement is `pulseSum` with its terms written out. -/
theorem pwcalcWritesPulseWidth : Obligations.PwcalcWritesPulseWidth :=
  ⟨rfl, fun _ o v a ho hv ha hq => execPwcalc_eq_next.2 ⟨o, a, v, ho, ha, hv, hq, rfl⟩,
    fun _ hnone => execPwcalc_eq_refused.2 (.inl ⟨hnone, rfl⟩)⟩

/-! ### The terms of the sum with the reference gains (R121, R122, R124) -/

theorem pulseSum_eq {p : Params} (hp : p.ReferenceGains) (o : Sample10) (v : Sine) (a : Sample8) :
    pulseSum p o v a = p.pwCenter.toNat + ((o.toNat : Int) - 512) * 2 + scaledSine p v a := by
  obtain ⟨hmid, hshift, -, -⟩ := hp
  rw [pulseSum, offsetTerm, hmid, hshift]
  rfl

theorem scaledSine_eq {p : Params} (hp : p.ReferenceGains) (v : Sine) (a : Sample8) :
    scaledSine p v a = v.toInt * a.toNat / 64 := by
  obtain ⟨-, -, hshift, -⟩ := hp
  rw [scaledSine, hshift]
  rfl

/-- The product of sine and amplitude is extreme at the ends of the sine, with the largest amplitude. -/
theorem scaledSine_bounds {p : Params} (hp : p.ReferenceGains) (v : Sine) (a : Sample8) :
    -510 ≤ scaledSine p v a ∧ scaledSine p v a ≤ 506 := by
  have hlo : -128 * (a.toNat : Int) ≤ v.toInt * a.toNat :=
    mul_le_mul_of_nonneg_right (by have := BitVec.le_toInt v; omega) (Int.natCast_nonneg _)
  have hhi : v.toInt * a.toNat ≤ 127 * (a.toNat : Int) :=
    mul_le_mul_of_nonneg_right (by have := BitVec.toInt_lt (x := v); omega) (Int.natCast_nonneg _)
  rw [scaledSine_eq hp]
  omega

theorem scaledSine_silent {p : Params} (hp : p.ReferenceGains) (v : Sine) : scaledSine p v 0 = 0 := by
  rw [scaledSine_eq hp]
  exact congrArg (· / 64) (mul_zero v.toInt)

theorem scaledSine_trough {p : Params} (hp : p.ReferenceGains) {g : Angle} (hlo : 187 ≤ g.toNat) (hhi : g.toNat ≤ 197) :
    scaledSine p (sin8 p.sqImpl g) 255 = -510 := by
  rw [scaledSine_eq hp, (sin8_eq_neg_128_iff p.sqImpl g).2 ⟨hlo, hhi⟩]
  rfl

theorem scaledSine_crest {p : Params} (hp : p.ReferenceGains) {g : Angle} (hlo : 59 ≤ g.toNat) (hhi : g.toNat ≤ 69) :
    scaledSine p (sin8 p.sqImpl g) 255 = 506 := by
  rw [scaledSine_eq hp, (sin8_eq_127_iff p.sqImpl g).2 ⟨hlo, hhi⟩]
  rfl

/-! ### The range of the sum (R124) -/

theorem pulseSum_bounds {p : Params} (hp : p.ReferenceGains) (o : Sample10) (v : Sine) (a : Sample8) :
    (p.pwCenter.toNat : Int) - 1534 ≤ pulseSum p o v a ∧ pulseSum p o v a ≤ p.pwCenter.toNat + 1528 := by
  have hsine := scaledSine_bounds hp v a
  rw [pulseSum_eq hp]
  omega

theorem pulseSum_centred {p : Params} (hp : p.ReferenceGains) (v : Sine) (a : Sample8) :
    pulseSum p 512 v a = p.pwCenter.toNat + scaledSine p v a := by
  rw [pulseSum_eq hp]
  exact congrArg (· + scaledSine p v a) (add_zero _)

theorem pulseSum_centred_bounds {p : Params} (hp : p.ReferenceGains) (v : Sine) (a : Sample8) :
    (p.pwCenter.toNat : Int) - 510 ≤ pulseSum p 512 v a ∧ pulseSum p 512 v a ≤ p.pwCenter.toNat + 506 := by
  have hsine := scaledSine_bounds hp v a
  rw [pulseSum_centred hp]
  omega

/-- The smallest sum is reached: both terms have their minimum at the offset 0 and the trough. -/
theorem pulseSum_min {p : Params} (hp : p.ReferenceGains) :
    pulseSum p 0 (sin8 p.sqImpl 192) 255 = p.pwCenter.toNat - 1534 := by
  rw [pulseSum_eq hp, scaledSine_trough hp (by decide) (by decide)]
  simp only [BitVec.ofNat_eq_ofNat, BitVec.toNat_ofNat]
  omega

/-- The largest sum is reached: both terms have their maximum at the offset 1023 and the crest. -/
theorem pulseSum_max {p : Params} (hp : p.ReferenceGains) :
    pulseSum p 1023 (sin8 p.sqImpl 64) 255 = p.pwCenter.toNat + 1528 := by
  rw [pulseSum_eq hp, scaledSine_crest hp (by decide) (by decide)]
  simp only [BitVec.ofNat_eq_ofNat, BitVec.toNat_ofNat]
  omega

/-- Settles O36: the sum's bounds are those of its two terms added up. -/
theorem pulseSumRange : Obligations.PulseSumRange := by
  intro p o v a hp
  obtain ⟨hlo, hhi⟩ := pulseSum_bounds hp o v a
  refine ⟨hlo, hhi, ?centred, ?silent, fun g => scaledSine_trough hp, fun g => scaledSine_crest hp⟩
  case centred =>
    rintro rfl
    exact pulseSum_centred_bounds hp v a
  case silent =>
    rintro rfl
    rw [pulseSum_eq hp, scaledSine_silent hp]
    omega

/-! ### Truncation and the wrap (R123, R125) -/

theorem toNat_pulseWidth (p : Params) (o : Sample10) (v : Sine) (a : Sample8) :
    ((pulseWidth p o v a).toNat : Int) = pulseSum p o v a % 65536 := by
  rw [pulseWidth, trunc, BitVec.toNat_ofInt]
  exact Int.toNat_of_nonneg (Int.emod_nonneg _ (by decide))

/-- A sum in the range of a duration is not changed by the truncation. -/
theorem toNat_pulseWidth_of_fits {p : Params} {o : Sample10} {v : Sine} {a : Sample8} (hlo : 0 ≤ pulseSum p o v a)
    (hhi : pulseSum p o v a ≤ 65535) : ((pulseWidth p o v a).toNat : Int) = pulseSum p o v a := by
  rw [toNat_pulseWidth]
  omega

/-- Settles O37: the two extreme sums are in range exactly when every sum is, and at PW_CENTER = 1500 the sum is -2 at the
offset 16 and 0 at 17. -/
theorem noWrapExactlyInCentreRange : Obligations.NoWrapExactlyInCentreRange := by
  intro p hp
  refine ⟨⟨fun h => ?extremesFit, fun h o g a => ?allFit⟩, fun hc g hlo hhi => ?wrapsAt1500⟩
  case extremesFit =>
    have hmin := (h 0 192 255).1
    have hmax := (h 1023 64 255).2
    rw [pulseSum_min hp] at hmin
    rw [pulseSum_max hp] at hmax
    omega
  case allFit =>
    have hsum := pulseSum_bounds hp o (sin8 p.sqImpl g) a
    omega
  case wrapsAt1500 =>
    have hw : ∀ o : Sample10, ((pulseWidth p o (sin8 p.sqImpl g) 255).toNat : Int) =
        (1500 + ((o.toNat : Int) - 512) * 2 + -510) % 65536 := fun o => by
      rw [toNat_pulseWidth, pulseSum_eq hp, scaledSine_trough hp hlo hhi, hc]
      rfl
    exact ⟨Int.ofNat_inj.1 (hw 16), Int.ofNat_inj.1 (hw 17)⟩

/-- R125's two conditions on the parameters: the sum cannot wrap, and the safe range holds its whole span. -/
structure SafeSpan (p : Params) : Prop where
  gains : p.ReferenceGains
  noWrapLow : 1534 ≤ p.pwCenter.toNat
  noWrapHigh : p.pwCenter.toNat ≤ 64007
  safeLow : p.pwSafeMin ≤ p.pwCenter.toNat - 1534
  safeHigh : p.pwCenter.toNat + 1528 ≤ p.pwSafeMax

/-- Under R125's conditions every pulse width is safe, for whatever sine pattern. -/
theorem SafeSpan.safeWidth {p : Params} (h : SafeSpan p) (o : Sample10) (v : Sine) (a : Sample8) :
    SafeWidth p (pulseWidth p o v a) := by
  obtain ⟨hp, hlo, hhi, hmin, hmax⟩ := h
  have hsum := pulseSum_bounds hp o v a
  have hw : ((pulseWidth p o v a).toNat : Int) = pulseSum p o v a := toNat_pulseWidth_of_fits (by omega) (by omega)
  constructor <;> omega

/-- Settles O38: where the sum cannot wrap, the widths at the two extreme sums are PW_CENTER - 1534 and PW_CENTER + 1528. -/
theorem safeExactlyWhenRangeFits : Obligations.SafeExactlyWhenRangeFits := by
  intro p hp hlo hhi
  refine ⟨fun h => ?_, fun ⟨hmin, hmax⟩ o g a => SafeSpan.safeWidth ⟨hp, hlo, hhi, hmin, hmax⟩ o _ a⟩
  obtain ⟨hmin, -⟩ := h 0 192 255
  obtain ⟨-, hmax⟩ := h 1023 64 255
  have hwmin := toNat_pulseWidth p 0 (sin8 p.sqImpl 192) 255
  have hwmax := toNat_pulseWidth p 1023 (sin8 p.sqImpl 64) 255
  rw [pulseSum_min hp] at hwmin
  rw [pulseSum_max hp] at hwmax
  omega

/-- Settles O39: at the offset's middle the sum is PW_CENTER plus the sine term, and PHASE = 0x4000 is the crest. -/
theorem sourcePulseProperties : Obligations.SourcePulseProperties := by
  intro p hp
  refine ⟨fun v => ?silent, fun g hlo hhi => ?largest, ?crest⟩
  case silent =>
    apply BitVec.eq_of_toNat_eq
    have hw := toNat_pulseWidth p 512 v 0
    rw [pulseSum_centred hp, scaledSine_silent hp] at hw
    omega
  case largest =>
    have hsum := pulseSum_centred_bounds hp (sin8 p.sqImpl g) 255
    have hw := toNat_pulseWidth_of_fits (p := p) (o := 512) (v := sin8 p.sqImpl g) (a := 255) (by omega) (by omega)
    omega
  case crest =>
    apply BitVec.eq_of_toNat_eq
    have hw := toNat_pulseWidth p 512 (sin8 p.sqImpl (angleOf 0x4000)) 255
    rw [pulseSum_centred hp, scaledSine_crest hp (by decide) (by decide)] at hw
    change _ = (p.pwCenter.toNat + 506) % 65536
    omega

/-! ### The safe trace (R125, R190) -/

/-- What the reference sequence keeps under R125's conditions: the pulses emitted are safe, and from the step after PWCALC on
so is the width in PW, which PULSE emits. Before that PW may hold anything. -/
structure State.PulsesSafe (s : State) : Prop where
  span : SafeSpan s.params
  runsReference : s.RunsReference
  trace : SafeTrace s.params s.trace
  pwWhenDue : dueAt .pw ≤ s.seq.toNat → ∀ w, s.pw = some w → SafeWidth s.params w

/-- A meaning leaves PW as it was, or it is PWCALC's and PW holds a pulse width (R20, R120). -/
theorem exec_pw_cases {i : Instr} {s t : State} (h : exec i s = .next t) :
    (i ≠ .pwcalc ∧ t.pw = s.pw) ∨ ∃ o v a, t.pw = some (pulseWidth s.params o v a) := by
  by_cases hi : i = .pwcalc
  · subst hi
    obtain ⟨o, a, v, -, -, -, -, rfl⟩ := execPwcalc_eq_next.1 h
    exact .inr ⟨o, v, a, rfl⟩
  · have hw : writtenReg i ≠ some .pw := by
      cases i with
      | pwcalc => exact absurd rfl hi
      | rd10 d => cases d <;> nofun
      | _ => nofun
    exact .inl ⟨hi, Option.map_injective (fun _ _ => BitVec.eq_of_toNat_eq) (exec_keeps_reg h hw)⟩

/-- A pulse in the trace was there before, or it is PULSE's and has the width in PW (R49, R140). -/
theorem exec_pulse_cases {i : Instr} {s t : State} {l : Line} {w : Duration} (h : exec i s = .next t)
    (hw : .pulse l w ∈ t.trace) : .pulse l w ∈ s.trace ∨ (i = .pulse ∧ s.pw = some w) := by
  obtain hsame | ⟨e, hone, hcall⟩ := exec_trace_cases h
  · exact .inl (hsame ▸ hw)
  rw [hone, List.mem_append, List.mem_singleton] at hw
  refine hw.imp_right fun he => ?_
  subst he
  cases i with
  | pulse => obtain ⟨_, he, hpw⟩ := hcall; cases he; exact ⟨rfl, hpw⟩
  | rd10 d => cases d <;> obtain ⟨_, he, -⟩ := hcall <;> cases he
  | rd8 => obtain ⟨_, he, -⟩ := hcall; cases he
  | _ => cases hcall

theorem pwcalc_of_writes_pw {i : Instr} (h : .pw ∈ writtenParts i) : i = .pwcalc := by
  cases i with
  | pwcalc => rfl
  | rd10 d => cases d <;> simp [writtenParts] at h
  | _ => simp [writtenParts] at h

/-- A reset empties the trace; a PULSE emits the width in PW, which is due where the reference sequence has PULSE. -/
theorem step_keeps_safeTrace {s t : State} (hs : s.PulsesSafe) (h : step s = .next t) : SafeTrace s.params t.trace := by
  obtain ⟨e, -, rfl⟩ | ⟨f, i, -, hi, hx⟩ := step_cases h
  · exact fun _ _ hw => nomatch hw
  · intro l w hw
    obtain hold | ⟨rfl, hpw⟩ := exec_pulse_cases hx hw
    · exact hs.trace l w hold
    · obtain ⟨hreads, -⟩ := reference_writes_before_reads (reference_at_seq hs.runsReference hi)
      exact hs.pwWhenDue (hreads .pw List.mem_cons_self) w hpw

/-- A reset goes to step 0, where PW is not due; it becomes due only by PWCALC, which writes a safe width. -/
theorem step_keeps_safe_pw {s t : State} (hs : s.PulsesSafe) (h : step s = .next t) (hdue : dueAt .pw ≤ t.seq.toNat) :
    ∀ w, t.pw = some w → SafeWidth s.params w := by
  obtain ⟨e, -, rfl⟩ | ⟨f, i, -, hi, hx⟩ := step_cases h
  · exact fun _ hw => nomatch hw
  · intro w hw
    obtain ⟨hne, hsame⟩ | ⟨o, v, a, hpw⟩ := exec_pw_cases hx
    · obtain ⟨-, hwrites⟩ := reference_writes_before_reads (reference_at_seq hs.runsReference hi)
      have hnext : t.seq.toNat ≤ s.seq.toNat + 1 := exec_seq_le (s := envFinish f s.takeMove) hx
      have hnotNew : dueAt .pw ≠ s.seq.toNat + 1 := fun hk => hne (pwcalc_of_writes_pw (hwrites .pw hk))
      exact hs.pwWhenDue (by omega) w (hsame.symm.trans hw)
    · obtain rfl : pulseWidth s.params o v a = w := Option.some.inj (hpw.symm.trans hw)
      exact hs.span.safeWidth o v a

theorem step_keeps_pulsesSafe {s t : State} (hs : s.PulsesSafe) (h : step s = .next t) : t.PulsesSafe := by
  have hparams := (parametersAndSequenceAreReadOnly s t h).1
  refine ⟨hparams ▸ hs.span, step_keeps_runsReference hs.runsReference h, ?_, ?_⟩
  · rw [hparams]; exact step_keeps_safeTrace hs h
  · rw [hparams]; exact step_keeps_safe_pw hs h

/-- What every step keeps, every run keeps. -/
theorem steps_keep {P : State → Prop} (hP : ∀ s t, P s → step s = .next t → P t) {n : Nat} {s t : State} (hs : P s)
    (h : steps n s = .next t) : P t := by
  induction n generalizing s with
  | zero => cases h; exact hs
  | succ n ih =>
    rw [steps_succ] at h
    obtain ⟨u, hu, hn⟩ := andThen_eq_next.1 h
    exact ih (hP s u hs hu) hn

/-- Settles O54: at a boundary PW is not yet due, so the invariant asks only for the trace so far. -/
theorem safeTraceStaysSafe : Obligations.SafeTraceStaysSafe := by
  intro s t n hb hp hlo hhi hmin hmax htrace ⟨_, hrun, _⟩
  have hs : s.PulsesSafe := ⟨⟨hp, hlo, hhi, hmin, hmax⟩, hb.runsReference, htrace,
    fun hdue => absurd (hb.atStepZero ▸ hdue) (by decide)⟩
  exact (steps_keep (fun _ _ => step_keeps_pulsesSafe) hs hrun).trace

end Sys2Proof.Machine
end

section
/-! The phase accumulator (43_phase.md R131 to R133): PHADV's next state, advances added up modulo 65536, the speed as the
period, and the settlements of O14, O40 and O41. -/

namespace Sys2Proof.Machine

/-- Settles O14: the next state is `execPhadv_eq_next`'s, with the advance in numbers. -/
theorem phadvAdvancesPhase : Obligations.PhadvAdvancesPhase := by
  refine ⟨rfl, fun s v hv hq => execPhadv_eq_next.2 ⟨v, hv, hq, ?_⟩, fun s hv => execPhadv_eq_refused.2 (.inl ⟨hv, rfl⟩)⟩
  have hphase : BitVec.ofNat 16 ((s.phase.toNat + v.toNat * 2 ^ s.params.speedShift) % 65536)
      = phaseAdvance s.params s.phase v := by
    rw [← toNat_phaseAdvance, BitVec.ofNat_toNat, BitVec.setWidth_eq]
  rw [hphase]

/-! ### Advances one after the other (R132) -/

theorem toNat_foldl_phaseAdvance (p : Params) (ph : Phase) (vs : List Sample10) :
    (vs.foldl (phaseAdvance p) ph).toNat = (ph.toNat + (vs.map fun v => v.toNat * 2 ^ p.speedShift).sum) % 65536 := by
  induction vs generalizing ph with
  | nil => simp [Nat.mod_eq_of_lt ph.isLt]
  | cons v vs ih =>
    rw [List.foldl_cons, ih, toNat_phaseAdvance, Nat.mod_add_mod, Nat.add_assoc, List.map_cons, List.sum_cons]

/-- Equal advances are the fold over equal samples. -/
theorem iterate_phaseAdvance (p : Params) (ph : Phase) (v : Sample10) (n : Nat) :
    (fun q => phaseAdvance p q v)^[n] ph = (List.replicate n v).foldl (phaseAdvance p) ph := by
  induction n generalizing ph with
  | zero => rfl
  | succ n ih => exact ih (phaseAdvance p ph v)

theorem toNat_iterate_phaseAdvance (p : Params) (ph : Phase) (v : Sample10) (n : Nat) :
    ((fun q => phaseAdvance p q v)^[n] ph).toNat = (ph.toNat + n * (v.toNat * 2 ^ p.speedShift)) % 65536 := by
  rw [iterate_phaseAdvance, toNat_foldl_phaseAdvance, List.map_replicate, List.sum_replicate, smul_eq_mul]

/-- Settles O40: both clauses are the sum of the increments; reducing the sum by itself first changes nothing. -/
theorem phaseAccumulates : Obligations.PhaseAccumulates := by
  refine fun p ph => ⟨toNat_foldl_phaseAdvance p ph, fun v n => ?_⟩
  rw [toNat_iterate_phaseAdvance, Nat.add_mod_mod]

/-! ### The speed and the period (R133) -/

/-- With SPEED_SHIFT = 2 the phase is back after `n` advances when 65536 divides 4 · n · v. -/
theorem iterate_phaseAdvance_eq_iff {p : Params} (hp : p.speedShift = 2) (ph : Phase) (v : Sample10) (n : Nat) :
    (fun q => phaseAdvance p q v)^[n] ph = ph ↔ 16384 ∣ n * v.toNat := by
  have hinc : n * (v.toNat * 2 ^ 2) = 4 * (n * v.toNat) := by ring
  rw [← BitVec.toNat_inj, toNat_iterate_phaseAdvance, hp, hinc]
  omega

/-- The angle after one advance, with SPEED_SHIFT = 2: the high byte of the new phase (R130). -/
theorem toNat_angleOf_phaseAdvance {p : Params} (hp : p.speedShift = 2) (ph : Phase) (v : Sample10) :
    (angleOf (phaseAdvance p ph v)).toNat = (ph.toNat + v.toNat * 4) % 65536 / 256 := by
  rw [toNat_angleOf, toNat_phaseAdvance, hp]
  rfl

/-- Settles O41: each clause is the arithmetic of an advance by 4 · v modulo 65536. -/
theorem speedSetsThePeriod : Obligations.SpeedSetsThePeriod := by
  rintro p ⟨-, -, -, hp⟩ ph v
  have hangle := toNat_angleOf_phaseAdvance hp ph v
  have hold := toNat_angleOf ph
  refine ⟨iterate_phaseAdvance_eq_iff hp ph v, ?_, fun hv => ?_, ?_⟩
  · rintro rfl
    simpa using (iterate_phaseAdvance_eq_iff hp ph 0 1).2 (by simp)
  · rw [Ne, ← BitVec.toNat_inj]
    omega
  · rintro rfl
    rw [BitVec.toNat_sub, hangle, hold]
    have hv : (1023 : Sample10).toNat = 1023 := rfl
    omega

end Sys2Proof.Machine
end

section
/-! One iteration of the reference sequence as R148's function (44_emit_sequencer.md R145, R148): what each step has done so
far, and the settlement of O47 by induction over the iterations (43_phase.md R135). -/

namespace Sys2Proof.Machine

/-! ### How far an iteration has come -/

/-- Where the reference sequence has a micro-operation (R146). -/
def StandsAt (p : Params) (k : Nat) : Instr → Prop
  | .sel ch => (k = 0 ∧ ch = p.chOffset) ∨ (k = 5 ∧ ch = p.chSpeed) ∨ (k = 10 ∧ ch = p.chAmpl)
  | .conv => k = 1 ∨ k = 6 ∨ k = 11
  | .dly => k = 2 ∨ k = 7 ∨ k = 12
  | .wait => k = 3 ∨ k = 8 ∨ k = 13
  | .rd10 .offset => k = 4
  | .rd10 .speed => k = 9
  | .rd8 => k = 14
  | .sin8 => k = 15
  | .usin8 => False
  | .pwcalc => k = 16
  | .phadv => k = 17
  | .pulse => k = 18
  | .loop => k = 19

theorem standsAt_of_reference {p : Params} {k : Nat} {i : Instr} (h : (referenceProgram p)[k]? = some i) :
    StandsAt p k i := by
  have hk : k < 20 := (List.getElem?_eq_some_iff.1 h).1
  interval_cases k <;> cases h <;> simp [StandsAt]

/-- The sine of an iteration that starts at the boundary `b` (R87). -/
def State.iterationSine (b : State) : Sine := sin8 b.params.sqImpl (angleOf b.phase)

/-- The pulse width of an iteration that starts at `b` and is given the samples `x` (R123). -/
def Samples.width (b : State) (x : Samples) : Duration := pulseWidth b.params x.offset b.iterationSine x.ampl

/-- The events of an iteration that starts at `b` and is given the samples `x` (R148). -/
def Samples.events (b : State) (x : Samples) : List Event :=
  iterationEvents b.params x.offset x.speed x.ampl (x.width b)

/-- How many of its 16 calls an iteration has made at step `k`: one in each of the steps 0 to 14 and one at step 18, where a
request outstanding says that the step's call is made. -/
def callsMade (k : Nat) (h : Hold) : Nat := min k 15 + if h = .none ∧ k < 19 then 0 else 1

/-- `s` is at step `k` of an iteration that started at `b` and is given the samples `x`: the registers written so far, PHASE
before and after PHADV, no conversion in flight after the last read, and the calls made so far. -/
structure Progress (b : State) (x : Samples) (k : Nat) (s : State) : Prop where
  seq : s.seq.toNat = k
  phaseBefore : k ≤ 17 → s.phase = b.phase
  phaseAfter : 18 ≤ k → s.phase = phaseAdvance b.params b.phase x.speed
  offset : 5 ≤ k → s.offset = some x.offset
  speed : 10 ≤ k → s.speed = some x.speed
  ampl : 15 ≤ k → s.ampl = some x.ampl
  sine : 16 ≤ k → s.sine = some b.iterationSine
  pw : 17 ≤ k → s.pw = some (x.width b)
  conv : 15 ≤ k → s.env.conv ≠ .busy
  trace : s.trace = b.trace ++ (x.events b).take (callsMade k s.hold)

variable {b s t : State} {x : Samples} {k : Nat}

/-- The environment's move finishes operations in flight and undoes nothing of an iteration. -/
theorem Progress.afterMove (hs : Progress b x k s) (f : Finish) : Progress b x k (envFinish f s.takeMove) where
  seq := hs.seq
  phaseBefore := hs.phaseBefore
  phaseAfter := hs.phaseAfter
  offset := hs.offset
  speed := hs.speed
  ampl := hs.ampl
  sine := hs.sine
  pw := hs.pw
  conv hk hbusy := hs.conv hk (conv_finish_eq_busy.1 hbusy).1
  trace := by simpa [callsMade] using hs.trace

/-- A step that writes no register keeps the progress when no register is due at the step it leads to, and its call is the
next event. -/
theorem Progress.keepRegisters {e : Env} {h : Hold} {tr : List Event} {q : StepNo} {k' : Nat} (hs : Progress b x k s)
    (hq : q.toNat = k') (hk : k' = k ∨ k' = k + 1 ∧ k ∉ [4, 9, 14, 15, 16, 17]) (he : 15 ≤ k' → e.conv ≠ .busy)
    (htr : tr = b.trace ++ (x.events b).take (callsMade k' h)) :
    Progress b x k' { s with env := e, hold := h, trace := tr, seq := q } := by
  simp only [List.mem_cons, List.not_mem_nil, or_false] at hk
  exact ⟨hq, fun h => hs.phaseBefore (by omega), fun h => hs.phaseAfter (by omega), fun h => hs.offset (by omega),
    fun h => hs.speed (by omega), fun h => hs.ampl (by omega), fun h => hs.sine (by omega), fun h => hs.pw (by omega),
    he, htr⟩

theorem Progress.next_seq (hs : Progress b x k s) (hq : s.seq ≠ 31) : (s.seq + 1).toNat = k + 1 :=
  hs.seq ▸ toNat_succ_seq hq

theorem callsMade_none {k : Nat} (hk : k ≤ 15) : callsMade k .none = k := by
  simp [callsMade, hk, show k < 19 by omega]

/-- A call in one of the steps 0 to 14 whose event is the next one of the iteration. -/
theorem Progress.trace_call (hs : Progress b x k s) (hh : s.hold = .none) (hk : k < 15) {e : Event}
    (he : (x.events b)[k]? = some e) : s.trace ++ [e] = b.trace ++ (x.events b).take (callsMade (k + 1) s.hold) := by
  rw [hs.trace, hh, callsMade_none hk.le, callsMade_none hk, List.append_assoc, List.take_add_one, he]
  rfl

/-- A sample not read yet may be any: the progress so far does not depend on it. -/
theorem Progress.resample {x' : Samples} (hs : Progress b x k s) (hh : s.hold = .none) (hk : k ≤ 14)
    (ho : 5 ≤ k → x'.offset = x.offset) (hv : 10 ≤ k → x'.speed = x.speed)
    (htake : (x'.events b).take k = (x.events b).take k) : Progress b x' k s where
  seq := hs.seq
  phaseBefore := hs.phaseBefore
  phaseAfter h := by omega
  offset h := by rw [hs.offset h, ho h]
  speed h := by rw [hs.speed h, hv h]
  ampl h := by omega
  sine h := by omega
  pw h := by omega
  conv := hs.conv
  trace := by rw [hs.trace, hh, callsMade_none (by omega), htake]

/-! ### The micro-operations of an iteration -/

/-- DLY makes the step's call, is held, or goes on with the call made. -/
theorem execDly_progress (hs : Progress b x k s) (hp : s.params = b.params) (hk : k = 2 ∨ k = 7 ∨ k = 12)
    (h : execDly s = .next t) : ∃ k', Progress b x k' t := by
  obtain ⟨hh, rfl⟩ | ⟨-, rfl⟩ | ⟨hh, hq, rfl⟩ := execDly_eq_next.1 h
  · have htrace : s.trace ++ [.sleep s.params.tSampleUs] = b.trace ++ (x.events b).take (callsMade k .sleeping) := by
      rw [hp]
      obtain rfl | rfl | rfl := hk <;> exact (hs.trace_call hh (by decide) rfl).trans (by rw [hh]; rfl)
    exact ⟨k, hs.keepRegisters hs.seq (.inl rfl) (by omega) htrace⟩
  · exact ⟨k, hs⟩
  · obtain rfl | rfl | rfl := hk <;>
      exact ⟨_, hs.keepRegisters (hs.next_seq hq) (by decide) (by omega) (hs.trace.trans (hh ▸ rfl))⟩

/-- PULSE makes the last call, is held, or goes on with all calls made. -/
theorem execPulse_progress (hs : Progress b x 18 s) (hp : s.params = b.params) (h : execPulse s = .next t) :
    ∃ k', Progress b x k' t := by
  obtain ⟨w, hh, hw, -, rfl⟩ | ⟨-, rfl⟩ | ⟨hh, hq, rfl⟩ := execPulse_eq_next.1 h
  · obtain rfl : x.width b = w := Option.some.inj ((hs.pw (by decide)).symm.trans hw)
    refine ⟨18, hs.keepRegisters hs.seq (.inl rfl) hs.conv ?_⟩
    rw [hs.trace, hh, hp, List.append_assoc]
    rfl
  · exact ⟨18, hs⟩
  · exact ⟨19, hs.keepRegisters (hs.next_seq hq) (by decide) (fun _ => hs.conv (by decide)) (hs.trace.trans (hh ▸ rfl))⟩

/-- RD10 writes its sample, which becomes the iteration's offset or speed sample. -/
theorem execRd10_progress {d : Dest10} (hs : Progress b x k s) (hi : StandsAt b.params k (.rd10 d)) (hh : s.hold = .none)
    (h : execRd10 d s = .next t) : ∃ x' k', Progress b x' k' t := by
  obtain ⟨-, hq, rfl⟩ := execRd10_eq_next.1 h
  cases d with
  | offset =>
    obtain rfl : k = 4 := hi
    have hs' := hs.resample (x' := { x with offset := s.answer10 }) hh (by decide) (by omega) (fun _ => rfl) rfl
    exact ⟨_, 5, hs'.next_seq hq, fun _ => hs'.phaseBefore (by decide), by omega, fun _ => rfl, by omega, by omega,
      by omega, by omega, by omega, hs'.trace_call hh (by decide) rfl⟩
  | speed =>
    obtain rfl : k = 9 := hi
    have hs' := hs.resample (x' := { x with speed := s.answer10 }) hh (by decide) (fun _ => rfl) (by omega) rfl
    exact ⟨_, 10, hs'.next_seq hq, fun _ => hs'.phaseBefore (by decide), by omega, fun _ => hs'.offset (by decide),
      fun _ => rfl, by omega, by omega, by omega, by omega, hs'.trace_call hh (by decide) rfl⟩

/-- RD8 writes its sample, which becomes the iteration's amplitude sample; no conversion is in flight from here on. -/
theorem execRd8_progress (hs : Progress b x 14 s) (hh : s.hold = .none) (h : execRd8 s = .next t) :
    ∃ x', Progress b x' 15 t := by
  obtain ⟨hc, hq, rfl⟩ := execRd8_eq_next.1 h
  have hs' := hs.resample (x' := { x with ampl := s.answer8 }) hh (by decide) (fun _ => rfl) (fun _ => rfl) rfl
  exact ⟨_, hs'.next_seq hq, fun _ => hs'.phaseBefore (by decide), by omega, fun _ => hs'.offset (by decide),
    fun _ => hs'.speed (by decide), fun _ => rfl, by omega, by omega, fun _ => by simp [hc],
    hs'.trace_call hh (by decide) rfl⟩

/-- SIN8 reads the phase of the boundary, which PHADV has not advanced yet. -/
theorem execSin8_progress (hs : Progress b x 15 s) (hp : s.params = b.params) (hh : s.hold = .none)
    (h : execSin8 s = .next t) : Progress b x 16 t := by
  obtain ⟨hq, rfl⟩ := execSin8_eq_next.1 h
  have hphase := hs.phaseBefore (by decide)
  exact ⟨hs.next_seq hq, fun _ => hphase, by omega, fun _ => hs.offset (by decide), fun _ => hs.speed (by decide),
    fun _ => hs.ampl (by decide), fun _ => by rw [hp, hphase]; rfl, by omega, fun _ => hs.conv (by decide),
    hs.trace.trans (hh ▸ rfl)⟩

/-- PWCALC reads the offset, the amplitude and the sine of this iteration. -/
theorem execPwcalc_progress (hs : Progress b x 16 s) (hp : s.params = b.params) (hh : s.hold = .none)
    (h : execPwcalc s = .next t) : Progress b x 17 t := by
  obtain ⟨o, a, v, ho, ha, hv, hq, rfl⟩ := execPwcalc_eq_next.1 h
  obtain rfl : x.offset = o := Option.some.inj ((hs.offset (by decide)).symm.trans ho)
  obtain rfl : x.ampl = a := Option.some.inj ((hs.ampl (by decide)).symm.trans ha)
  obtain rfl : b.iterationSine = v := Option.some.inj ((hs.sine (by decide)).symm.trans hv)
  exact ⟨hs.next_seq hq, fun _ => hs.phaseBefore (by decide), by omega, fun _ => ho, fun _ => hs.speed (by decide),
    fun _ => ha, fun _ => hv, fun _ => by rw [hp]; rfl, fun _ => hs.conv (by decide), hs.trace.trans (hh ▸ rfl)⟩

/-- PHADV advances the phase by the speed sample of this iteration. -/
theorem execPhadv_progress (hs : Progress b x 17 s) (hp : s.params = b.params) (hh : s.hold = .none)
    (h : execPhadv s = .next t) : Progress b x 18 t := by
  obtain ⟨v, hv, hq, rfl⟩ := execPhadv_eq_next.1 h
  obtain rfl : x.speed = v := Option.some.inj ((hs.speed (by decide)).symm.trans hv)
  exact ⟨hs.next_seq hq, by omega, fun _ => by rw [hp, hs.phaseBefore (by decide)], fun _ => hs.offset (by decide),
    fun _ => hv, fun _ => hs.ampl (by decide), fun _ => hs.sine (by decide), fun _ => hs.pw (by decide),
    fun _ => hs.conv (by decide), hs.trace.trans (hh ▸ rfl)⟩

/-- A micro-operation other than LOOP keeps the progress or brings it one step on; a read settles its sample. -/
theorem exec_progress {i : Instr} (hs : Progress b x k s) (hp : s.params = b.params) (hi : StandsAt b.params k i)
    (hfree : i ≠ .dly → i ≠ .pulse → s.hold = .none) (hloop : i ≠ .loop) (h : exec i s = .next t) :
    ∃ x' k', Progress b x' k' t := by
  cases i with
  | sel ch =>
    have hh := hfree nofun nofun
    obtain ⟨hc, hq, rfl⟩ := execSel_eq_next.1 h
    obtain ⟨rfl, rfl⟩ | ⟨rfl, rfl⟩ | ⟨rfl, rfl⟩ := hi <;>
      exact ⟨x, _, hs.keepRegisters (hs.next_seq hq) (by decide) (fun _ => hc) (hs.trace_call hh (by decide) rfl)⟩
  | conv =>
    have hh := hfree nofun nofun
    obtain ⟨-, -, hq, rfl⟩ := execConv_eq_next.1 h
    obtain rfl | rfl | rfl := hi <;>
      exact ⟨x, _, hs.keepRegisters (hs.next_seq hq) (by decide) (by omega) (hs.trace_call hh (by decide) rfl)⟩
  | dly => exact ⟨x, execDly_progress hs hp hi h⟩
  | wait =>
    have hh := hfree nofun nofun
    obtain ⟨-, hq, rfl⟩ | ⟨-, rfl⟩ := execWait_eq_next.1 h
    · obtain rfl | rfl | rfl := hi <;>
        exact ⟨x, _, hs.keepRegisters (hs.next_seq hq) (by decide) (by omega) (hs.trace_call hh (by decide) rfl)⟩
    · exact ⟨x, k, hs⟩
  | rd10 d => exact execRd10_progress hs hi (hfree nofun nofun) h
  | rd8 =>
    obtain rfl : k = 14 := hi
    obtain ⟨x', hx'⟩ := execRd8_progress hs (hfree nofun nofun) h
    exact ⟨x', 15, hx'⟩
  | sin8 =>
    obtain rfl : k = 15 := hi
    exact ⟨x, 16, execSin8_progress hs hp (hfree nofun nofun) h⟩
  | usin8 => exact hi.elim
  | pwcalc =>
    obtain rfl : k = 16 := hi
    exact ⟨x, 17, execPwcalc_progress hs hp (hfree nofun nofun) h⟩
  | phadv =>
    obtain rfl : k = 17 := hi
    exact ⟨x, 18, execPhadv_progress hs hp (hfree nofun nofun) h⟩
  | pulse =>
    obtain rfl : k = 18 := hi
    exact ⟨x, execPulse_progress hs hp h⟩
  | loop => exact absurd rfl hloop

/-! ### From boundary to boundary (R145) -/

/-- What holds from a boundary `b` of the reference sequence until it is back at step 0. -/
structure MidIteration (b s : State) : Prop where
  params : s.params = b.params
  runsReference : s.RunsReference
  noReset : NoReset s.moves
  inv : s.Inv
  progress : ∃ x k, Progress b x k s

/-- What one iteration from the boundary `b` leaves behind, given the samples `x` (R148). -/
structure IterationEnd (b : State) (x : Samples) (t : State) : Prop where
  params : t.params = b.params
  phase : t.phase = phaseAdvance b.params b.phase x.speed
  offset : t.offset = some x.offset
  speed : t.speed = some x.speed
  ampl : t.ampl = some x.ampl
  sine : t.sine = some b.iterationSine
  pw : t.pw = some (x.width b)
  trace : t.trace = b.trace ++ x.events b
  atBoundary : t.AtBoundary

theorem midIteration_of_atBoundary (hb : b.AtBoundary) : MidIteration b b where
  params := rfl
  runsReference := hb.runsReference
  noReset := hb.noReset
  inv := inv_of_not_held hb.notHeld hb.envReady.2 fun _ he => absurd (hb.noReset _ he) (by simp [EnvMove.isReset])
  progress := ⟨⟨0, 0, 0⟩, 0, by rw [hb.atStepZero]; rfl, fun _ => rfl, by omega, by omega, by omega, by omega, by omega,
    by omega, by omega, by rw [hb.notHeld]; exact (List.append_nil _).symm⟩

/-- Under the machine's invariant only DLY and PULSE are fetched with a request outstanding. -/
theorem State.Inv.hold_eq_none {i : Instr} (hs : s.Inv) (hi : fetch s = .next i) (hd : i ≠ .dly) (hp : i ≠ .pulse) :
    s.hold = .none := by
  by_contra hh
  obtain hreq | hreq := exists_requestedBy hh
  · exact hd (hs.requestedBy_of_fetch hi hreq).symm
  · exact hp (hs.requestedBy_of_fetch hi hreq).symm

/-- A step inside an iteration runs the reference sequence's micro-operation after a move that keeps the progress. -/
theorem MidIteration.exec_of_step (hs : MidIteration b s) (h : step s = .next t) :
    ∃ f i x k, Progress b x k (envFinish f s.takeMove) ∧ StandsAt b.params k i ∧
      (i ≠ .dly → i ≠ .pulse → (envFinish f s.takeMove).hold = .none) ∧ exec i (envFinish f s.takeMove) = .next t := by
  obtain ⟨f, hm⟩ := nextMove_run hs.noReset
  obtain ⟨i, hi, hx⟩ := exec_of_step_run hm h
  obtain ⟨x, k, hk⟩ := hs.progress
  have hpos := standsAt_of_reference (reference_at_seq hs.runsReference hi)
  rw [hs.params, hk.seq] at hpos
  exact ⟨f, i, x, k, hk.afterMove f, hpos, (inv_afterMove hs.inv f).hold_eq_none (by simpa using hi), hx⟩

/-- A step uses the head of the script, and no reset comes in the rest either. -/
theorem step_keeps_noReset (hs : NoReset s.moves) (h : step s = .next t) : NoReset t.moves := by
  obtain ⟨f, hm⟩ := nextMove_run hs
  obtain ⟨i, -, hx⟩ := exec_of_step_run hm h
  obtain ⟨-, -, hmoves, -⟩ := exec_keeps_arguments hx
  exact hmoves ▸ noReset_tail hs

/-- A step that does not come back to step 0 stays inside the iteration. -/
theorem MidIteration.stays (hs : MidIteration b s) (h : step s = .next t) (ht : t.seq ≠ 0) : MidIteration b t where
  params := (parametersAndSequenceAreReadOnly s t h).1.trans hs.params
  runsReference := step_keeps_runsReference hs.runsReference h
  noReset := step_keeps_noReset hs.noReset h
  inv := stepKeepsTheMachineInvariant s t hs.inv h
  progress := by
    obtain ⟨f, i, x, k, hk, hi, hh, hx⟩ := hs.exec_of_step h
    have hloop : i ≠ .loop := by
      rintro rfl
      obtain rfl := execLoop_eq_next.1 hx
      exact ht rfl
    exact exec_progress hk hs.params hi hh hloop hx

/-- Only LOOP comes back to step 0: a step on is above 0, and no micro-operation is held at step 0. -/
theorem loop_of_seq_eq_zero {p : Params} {i : Instr} (hi : StandsAt p s.seq.toNat i) (h : exec i s = .next t)
    (ht : t.seq = 0) : i = .loop := by
  obtain ⟨hheld, hq⟩ | ⟨hloop, -⟩ | ⟨-, hlast, hq⟩ := exec_seq_cases h
  · have hzero : s.seq.toNat = 0 := by rw [← hq, ht]; rfl
    rw [hzero] at hi
    obtain rfl | rfl | rfl := hheld <;> simp [StandsAt] at hi
  · exact hloop
  · have hsucc := toNat_succ_seq hlast
    rw [← hq, ht] at hsucc
    exact absurd hsucc (Nat.succ_ne_zero _).symm

/-- The step back to step 0 ends the iteration at a boundary. -/
theorem MidIteration.step_back (hs : MidIteration b s) (h : step s = .next t) (ht : t.seq = 0) :
    ∃ x, IterationEnd b x t := by
  obtain ⟨f, i, x, k, hk, hi, hh, hx⟩ := hs.exec_of_step h
  obtain rfl := loop_of_seq_eq_zero (hk.seq.symm ▸ hi) hx ht
  obtain rfl : k = 19 := hi
  have hhold := hh nofun nofun
  have hinv := stepKeepsTheMachineInvariant s t hs.inv h
  have huop := step_keeps_runsReference hs.runsReference h
  have hmoves := step_keeps_noReset hs.noReset h
  obtain rfl := execLoop_eq_next.1 hx
  refine ⟨x, hs.params, hk.phaseAfter (by decide), hk.offset (by decide), hk.speed (by decide), hk.ampl (by decide),
    hk.sine (by decide), hk.pw (by decide), hk.trace.trans (hhold ▸ rfl), huop, rfl, hhold,
    ⟨hk.conv (by decide), hinv.line_low ?_⟩, hmoves⟩
  exact hhold.trans_ne nofun

/-! ### Runs -/

theorem steps_succ_eq_next {n : Nat} : steps (n + 1) s = .next t ↔ ∃ u, steps n s = .next u ∧ step u = .next t := by
  have hone : steps 1 = step := by
    funext u
    rw [steps_succ]
    cases step u <;> rfl
  rw [steps_add, andThen_eq_next, hone]

/-- What every step short of step 0 keeps holds before the last step of a first return. -/
theorem FirstReturn.last_step {P : State → Prop} (hP : ∀ s u, P s → step s = .next u → u.seq ≠ 0 → P u) {n : Nat}
    (hs : P s) (h : FirstReturn n s t) : ∃ u, P u ∧ step u = .next t := by
  obtain ⟨hn, hrun, -, hbefore⟩ := h
  obtain ⟨n, rfl⟩ := Nat.exists_eq_succ_of_ne_zero hn.ne'
  obtain ⟨u, hu, hlast⟩ := steps_succ_eq_next.1 hrun
  have hkeep : ∀ m ≤ n, ∀ v, steps m s = .next v → P v := by
    intro m
    induction m with
    | zero => rintro - v hv; cases hv; exact hs
    | succ m ih =>
      intro hm v hv
      obtain ⟨w, hw, hstep⟩ := steps_succ_eq_next.1 hv
      exact hP w v (ih (by omega) w hw) hstep (hbefore (m + 1) v (by omega) (by omega) hv)
  exact ⟨u, hkeep n le_rfl u hu, hlast⟩

/-- From a boundary the next boundary is the end of one iteration, for whatever gains were built. -/
theorem iterationEnd_of_firstReturn {n : Nat} (hb : b.AtBoundary) (h : FirstReturn n b t) : ∃ x, IterationEnd b x t := by
  obtain ⟨u, hu, hlast⟩ := h.last_step (fun _ _ hs => hs.stays) (midIteration_of_atBoundary hb)
  exact hu.step_back hlast h.2.2.1

/-! ### The iteration function (R135, R148) -/

/-- With the reference gains R148's function is the advance of the phase and the events of the iteration. -/
theorem iteration_eq (hp : b.params.ReferenceGains) (x : Samples) :
    iteration b.params b.phase x = (phaseAdvance b.params b.phase x.speed, x.events b) := by
  obtain ⟨hmid, hoffset, hamp, hspeed⟩ := hp
  simp only [iteration, phaseAdvance, phaseIncrement, Samples.events, Samples.width, State.iterationSine, pulseWidth,
    pulseSum, offsetTerm, scaledSine, hmid, hoffset, hamp, hspeed]
  rfl

theorem toNat_iteration_phase (p : Params) (ph : Phase) (x : Samples) :
    (iteration p ph x).1.toNat = (ph.toNat + 4 * x.speed.toNat) % 65536 := by
  have hsum : zext ph + shiftLeft (zext x.speed) 2 = ((ph.toNat + 4 * x.speed.toNat : Nat) : Int) := by
    simp [zext, shiftLeft, mul_comm]
  rw [iteration, hsum, trunc, BitVec.ofInt_natCast, BitVec.toNat_ofNat]

theorem toNat_iterations_phase (p : Params) (ph : Phase) (xs : List Samples) :
    (iterations p ph xs).1.toNat = (ph.toNat + 4 * (xs.map fun x => x.speed.toNat).sum) % 65536 := by
  induction xs generalizing ph with
  | nil => exact (Nat.mod_eq_of_lt ph.isLt).symm
  | cons x xs ih =>
    rw [iterations, ih, toNat_iteration_phase, Nat.mod_add_mod, List.map_cons, List.sum_cons]
    ring_nf

theorem length_iterations_events (p : Params) (ph : Phase) (xs : List Samples) :
    (iterations p ph xs).2.length = 16 * xs.length := by
  induction xs generalizing ph with
  | nil => rfl
  | cons x xs ih =>
    have hone : (iteration p ph x).2.length = 16 := rfl
    rw [iterations, List.length_append, hone, ih, List.length_cons]
    ring

/-- The samples of an iteration are those the registers hold at its end. -/
theorem IterationEnd.samples_eq {y : Samples} (hx : IterationEnd b x t) (ho : t.offset = some y.offset)
    (hv : t.speed = some y.speed) (ha : t.ampl = some y.ampl) : x = y := by
  obtain ⟨o, v, a⟩ := x
  obtain ⟨o', v', a'⟩ := y
  cases hx.offset.symm.trans ho
  cases hx.speed.symm.trans hv
  cases hx.ampl.symm.trans ha
  rfl

/-- From boundary to boundary the machine follows the iteration function. -/
theorem iterates_follow_iterations {xs : List Samples} (hb : s.AtBoundary) (hp : s.params.ReferenceGains)
    (h : IteratesWith xs s t) : t.phase = (iterations s.params s.phase xs).1 ∧
      t.trace = s.trace ++ (iterations s.params s.phase xs).2 ∧ t.AtBoundary := by
  induction xs generalizing s with
  | nil =>
    obtain rfl := h
    exact ⟨rfl, (List.append_nil _).symm, hb⟩
  | cons x xs ih =>
    obtain ⟨n, u, hfirst, ho, hv, ha, hrest⟩ := h
    obtain ⟨y, hy⟩ := iterationEnd_of_firstReturn hb hfirst
    obtain rfl := hy.samples_eq ho hv ha
    obtain ⟨hphase, htrace, hend⟩ := ih hy.atBoundary (hy.params ▸ hp) hrest
    rw [hy.params, hy.phase] at hphase htrace
    rw [iterations, iteration_eq hp]
    exact ⟨hphase, by rw [htrace, hy.trace, List.append_assoc], hend⟩

/-- Settles O47: the run follows the iteration function, whose phase and number of events are sums over the samples. -/
theorem runsFollowTheIterationFunction : Obligations.RunsFollowTheIterationFunction := by
  intro xs s t hb hp h
  obtain ⟨hphase, htrace, hend⟩ := iterates_follow_iterations hb hp h
  exact ⟨hphase, htrace, hphase ▸ toNat_iterations_phase s.params s.phase xs,
    length_iterations_events s.params s.phase xs, hend⟩

end Sys2Proof.Machine
end

section
/-! Pulse emission, the endless loop and the admission of sequences (44_emit_sequencer.md R140, R143, R144, R146, R149, R150):
the settlements of O15, O16, O21, O23, O30 and O52. -/

namespace Sys2Proof.Machine

/-! ### PULSE and LOOP (R140 to R144) -/

/-- Whether the line rises, by the width: the free value at 0, and always above (R46, R142). -/
theorem pulseRises_eq (w : Duration) (n : Nat) :
    pulseRises w n = if w = 0 then Config.freeZeroWidthRises n else true := by
  split
  next h => subst h; exact pulseRises_zero n
  next h => exact pulseRises_of_ne_zero h n

/-- The environment ends a running pulse exactly by its pulse-done strobe (R140, R163). -/
theorem hold_envFinish_of_pulsing {s : State} (h : s.hold = .pulsing) (f : Finish) :
    (envFinish f s).hold = if f.pulse then .pulsed else .pulsing := by
  rw [envFinish_hold, h, Hold.finish]

/-- Settles O15: the call, the hold and the advance are the three branches of PULSE; between them the environment moves. -/
theorem pulseEmitsThenAdvances : Obligations.PulseEmitsThenAdvances := by
  refine ⟨rfl, fun s => ⟨?call, ?held, ?move, ?completes, ?unwritten⟩⟩
  case call =>
    rintro w _ rfl hh hw hlow
    rw [← pulseRises_eq]
    exact execPulse_eq_next.2 (.inl ⟨w, hh, hw, hlow, rfl⟩)
  case held => exact fun hh => execPulse_eq_next.2 (.inr (.inl ⟨.inl hh, rfl⟩))
  case move => exact fun hh f => ⟨hold_envFinish_of_pulsing hh f, level_finishPulse_same s.params.pulseLine f.pulse s.env⟩
  case completes => exact fun hh hq => execPulse_eq_next.2 (.inr (.inr ⟨hh, hq, rfl⟩))
  case unwritten => exact fun hh hw => execPulse_eq_refused.2 (.inl ⟨hh, hw, rfl⟩)

/-- Settles O16: LOOP's only outcome. -/
theorem loopReturnsToStepZero : Obligations.LoopReturnsToStepZero := ⟨rfl, fun _ => execLoop_eq_next.2 rfl⟩

/-- Settles O30: the environment's move leaves SEQ, so the step does to it what the meaning does. -/
theorem controlTransfersAreR144 : Obligations.ControlTransfersAreR144 := by
  intro s t f hm h
  obtain ⟨i, hi, hx⟩ := exec_of_step_run hm h
  refine ⟨i, hi, ?_⟩
  obtain ⟨hheld, hq⟩ | ⟨hloop, hq⟩ | ⟨hne, hlast, hq⟩ := exec_seq_cases hx
  · exact .inr (.inr ⟨hheld, hq⟩)
  · exact .inl ⟨hloop, hq⟩
  · exact .inr (.inl ⟨hne, hq ▸ toNat_succ_seq hlast⟩)

/-! ### PHADV beside PWCALC, PULSE and SIN8 (R149) -/

theorem phadv_pwcalc_commute {s u : State} : (∃ t, exec .phadv s = .next t ∧ exec .pwcalc t = .next u) ↔
    ∃ v, exec .pwcalc s = .next v ∧ exec .phadv v = .next u := by
  constructor
  · rintro ⟨t, h, h'⟩
    obtain ⟨v, hv, hq, rfl⟩ := execPhadv_eq_next.1 h
    obtain ⟨o, a, n, ho, ha, hn, hq', rfl⟩ := execPwcalc_eq_next.1 h'
    exact ⟨_, execPwcalc_eq_next.2 ⟨o, a, n, ho, ha, hn, hq, rfl⟩, execPhadv_eq_next.2 ⟨v, hv, hq', rfl⟩⟩
  · rintro ⟨t, h, h'⟩
    obtain ⟨o, a, n, ho, ha, hn, hq, rfl⟩ := execPwcalc_eq_next.1 h
    obtain ⟨v, hv, hq', rfl⟩ := execPhadv_eq_next.1 h'
    exact ⟨_, execPhadv_eq_next.2 ⟨v, hv, hq, rfl⟩, execPwcalc_eq_next.2 ⟨o, a, n, ho, ha, hn, hq', rfl⟩⟩

/-- PULSE neither reads nor writes PHASE or SPEED, whichever of its three parts runs. -/
theorem phadv_pulse_commute {s u : State} : (∃ t, exec .phadv s = .next t ∧ exec .pulse t = .next u) ↔
    ∃ v, exec .pulse s = .next v ∧ exec .phadv v = .next u := by
  constructor
  · rintro ⟨t, h, h'⟩
    obtain ⟨v, hv, hq, rfl⟩ := execPhadv_eq_next.1 h
    obtain ⟨w, hh, hw, hl, rfl⟩ | ⟨hh, rfl⟩ | ⟨hh, hq', rfl⟩ := execPulse_eq_next.1 h'
    · exact ⟨_, execPulse_eq_next.2 (.inl ⟨w, hh, hw, hl, rfl⟩), execPhadv_eq_next.2 ⟨v, hv, hq, rfl⟩⟩
    · exact ⟨_, execPulse_eq_next.2 (.inr (.inl ⟨hh, rfl⟩)), execPhadv_eq_next.2 ⟨v, hv, hq, rfl⟩⟩
    · exact ⟨_, execPulse_eq_next.2 (.inr (.inr ⟨hh, hq, rfl⟩)), execPhadv_eq_next.2 ⟨v, hv, hq', rfl⟩⟩
  · rintro ⟨t, h, h'⟩
    obtain ⟨v, hv, hq', rfl⟩ := execPhadv_eq_next.1 h'
    obtain ⟨w, hh, hw, hl, rfl⟩ | ⟨hh, rfl⟩ | ⟨hh, hq, rfl⟩ := execPulse_eq_next.1 h
    · exact ⟨_, execPhadv_eq_next.2 ⟨v, hv, hq', rfl⟩, execPulse_eq_next.2 (.inl ⟨w, hh, hw, hl, rfl⟩)⟩
    · exact ⟨_, execPhadv_eq_next.2 ⟨v, hv, hq', rfl⟩, execPulse_eq_next.2 (.inr (.inl ⟨hh, rfl⟩))⟩
    · exact ⟨_, execPhadv_eq_next.2 ⟨v, hv, hq, rfl⟩, execPulse_eq_next.2 (.inr (.inr ⟨hh, hq', rfl⟩))⟩

/-- The reset state under P0 with the largest speed sample: PHADV takes its angle from 0 to 15. -/
def fastAtReset : State := { State.reset with params := Params.p0, speed := some 1023 }

/-- Settles O52: PHADV changes PHASE, which of the three only SIN8 reads; at angles 0 and 15 the sines differ. -/
theorem phadvCommutes : Obligations.PhadvCommutes := by
  refine ⟨fun _ _ => phadv_pwcalc_commute, fun _ _ => phadv_pulse_commute, ?_⟩
  have hsine : sin8 .mul (angleOf (phaseAdvance Params.p0 0 1023)) ≠ sin8 .mul (angleOf 0) := by decide
  exact ⟨fastAtReset, _, _, _, _, rfl, rfl, rfl, rfl, fun h => hsine (Option.some.inj h)⟩

/-! ### Admitting a sequence (R150), and the hard-wired one (R146) -/

/-- A sequence is all legal words exactly when it is the words of some micro-operations (R71). -/
theorem exists_encodeAll_iff {ws : List Byte} : (∃ is, ws = encodeAll is) ↔ ∀ w ∈ ws, legalWord w = true := by
  constructor
  · rintro ⟨is, rfl⟩
    exact List.all_eq_true.1 (legal_encodeAll is)
  · intro h
    have hword : ∀ w ∈ ws, w ∈ Set.range encode := fun w hw => by
      obtain ⟨i, hi⟩ := (legalWord_iff w).1 (h w hw)
      exact ⟨i, (encode_of_decodeWord hi).symm⟩
    obtain ⟨is, his⟩ : ws ∈ Set.range (List.map encode) := by rwa [Set.range_list_map]
    exact ⟨is, his.symm⟩

/-- The check of R150 on micro-operations is the one on their words. -/
theorem sequenceWellFormed_iff {is : List Instr} : sequenceWellFormed is = true ↔
    1 ≤ (encodeAll is).length ∧ (encodeAll is).length ≤ 32 ∧ (encodeAll is).getLast? = some (encode .loop) := by
  have hlast : (encodeAll is).getLast? = some (encode .loop) ↔ is.getLast? = some .loop := by
    rw [encodeAll, List.getLast?_map]
    exact (Option.map_injective fun _ _ => encode_injective).eq_iff (b := some Instr.loop)
  rw [hlast]
  simp [sequenceWellFormed, lengthOk, endsInLoop, encodeAll, and_assoc]

/-- A sequence is admitted when it is the words of micro-operations that pass the check of R150, and becomes the machine's. -/
theorem load_eq_next {ws : List Byte} {s t : State} :
    load ws s = .next t ↔ (∃ is, ws = encodeAll is ∧ sequenceWellFormed is = true) ∧ t = { s with uop := ws } := by
  unfold load
  cases h : decodeAll ws with
  | error e => simp [← decodeAll_eq_ok_iff, h]
  | ok is => cases hwf : sequenceWellFormed is <;> simp [← decodeAll_eq_ok_iff, h, hwf, eq_comm (b := t)]

/-- The three conditions of R150 on the words. -/
theorem load_admits_iff {ws : List Byte} {s : State} : (∃ t, load ws s = .next t) ↔
    (∀ w ∈ ws, legalWord w = true) ∧ 1 ≤ ws.length ∧ ws.length ≤ 32 ∧ ws.getLast? = some (encode .loop) := by
  simp only [load_eq_next, exists_and_left, exists_eq, and_true, ← exists_encodeAll_iff]
  constructor
  · rintro ⟨is, rfl, hwf⟩
    exact ⟨⟨is, rfl⟩, sequenceWellFormed_iff.1 hwf⟩
  · rintro ⟨⟨is, rfl⟩, hwf⟩
    exact ⟨is, rfl, sequenceWellFormed_iff.2 hwf⟩

theorem load_of_illegalWord {ws : List Byte} (s : State) (h : ∃ w ∈ ws, legalWord w = false) :
    load ws s = .refused .illegalUop := by
  obtain ⟨w, hw, hill⟩ := h
  unfold load
  cases hd : decodeAll ws with
  | error e => rfl
  | ok is =>
    have hlegal : legalWord w = true := exists_encodeAll_iff.1 ⟨is, decodeAll_eq_ok_iff.1 hd⟩ w hw
    exact absurd hlegal (by simp [hill])

/-- Settles O21: the three conditions on the words are those on the micro-operations they decode to. -/
theorem loadAdmitsExactlyR150 : Obligations.LoadAdmitsExactlyR150 := fun _ s =>
  ⟨load_admits_iff, fun _ h => (load_eq_next.1 h).2, load_of_illegalWord s⟩

/-- Settles O23: the assembler's expansion written out, and the check of R150 computed on it. -/
theorem referenceSequenceIsR146 : Obligations.ReferenceSequenceIsR146 := fun p =>
  ⟨rfl, fun _ => load_eq_next.2 ⟨⟨referenceProgram p, rfl, rfl⟩, rfl⟩⟩

end Sys2Proof.Machine
end

section
/-! The reference sequence is never refused (44_emit_sequencer.md R147), and the settlement of O45. Its invariant admits every
micro-operation at its own step; the environment's move, each meaning and a reset keep it. -/

namespace Sys2Proof.Machine

variable {s t : State} {i : Instr}

/-! ### What the invariant of the reference sequence says at a step -/

/-- The step of the reference sequence from which on a data register is written; PHASE always holds a value (R27). -/
def Reg.dueAt : Reg → Nat
  | .phase => 0
  | .offset => 5
  | .speed => 10
  | .ampl => 15
  | .sine => 16
  | .pw => 17

/-- A register due at the next step is written by the micro-operation at this one (R147). -/
theorem reference_writes_due_reg {p : Params} {k : Nat} {r : Reg} (h : (referenceProgram p)[k]? = some i)
    (hr : r.dueAt = k + 1) : writtenReg i = some r := by
  cases r with
  | phase => exact absurd hr (Nat.succ_ne_zero k).symm
  | offset | speed | ampl | sine | pw => obtain rfl := Nat.succ.inj hr; cases h; rfl

/-- The invariant's clauses about the registers, as one: a register that is due holds a value. -/
theorem State.RefInv.reg_written (hs : s.RefInv) (r : Reg) (hr : r.dueAt ≤ s.seq.toNat) : s.reg r ≠ none := by
  cases r with
  | phase => simp [State.reg]
  | offset => simpa [State.reg] using hs.offsetWritten hr
  | speed => simpa [State.reg] using hs.speedWritten hr
  | ampl => simpa [State.reg] using hs.amplWritten hr
  | sine => simpa [State.reg] using hs.sineWritten hr
  | pw => simpa [State.reg] using hs.pwWritten hr

/-- The invariant from its parts, the registers taken together. -/
theorem refInv_of_reg_written (hinv : s.Inv) (hu : s.RunsReference) (hq : s.seq.toNat < Config.seqLen)
    (hreg : ∀ r : Reg, r.dueAt ≤ s.seq.toNat → s.reg r ≠ none) (hconv : convAtStep s.seq.toNat s.env.conv)
    (hch : channelAtStep s.params s.seq.toNat s.env.ch) : s.RefInv where
  inv := hinv
  runsReference := hu
  seqInRange := hq
  offsetWritten h := by simpa [State.reg] using hreg .offset h
  speedWritten h := by simpa [State.reg] using hreg .speed h
  amplWritten h := by simpa [State.reg] using hreg .ampl h
  sineWritten h := by simpa [State.reg] using hreg .sine h
  pwWritten h := by simpa [State.reg] using hreg .pw h
  conversion := hconv
  channel := hch

theorem State.RefInv.seq_ne_31 (hs : s.RefInv) : s.seq ≠ 31 := by
  intro h
  exact absurd (h ▸ hs.seqInRange) (by decide)

/-- What the reference sequence has at SEQ is fetched (R68, R146). -/
theorem fetch_of_reference (hu : s.RunsReference) (hi : (referenceProgram s.params)[s.seq.toNat]? = some i) :
    fetch s = .next i := by
  refine fetch_eq_next.2 ⟨?_, ?_⟩
  · rw [hu]; exact legal_referenceWords s.params
  · rw [hu, referenceWords, encodeAll, List.getElem?_map, hi]; rfl

theorem State.RefInv.exists_fetch (hs : s.RefInv) : ∃ i, fetch s = .next i :=
  ⟨_, fetch_of_reference hs.runsReference (List.getElem?_eq_getElem hs.seqInRange)⟩

/-! ### The environment's move -/

/-- Finishing a conversion in flight is within what every step of the reference sequence allows (R147). -/
theorem convAtStep_finish {k : Nat} {c : Conv} (f : Bool) (h : convAtStep k c) : convAtStep k (c.finish f) := by
  by_cases hfin : c.finish f = c
  · rwa [hfin]
  · obtain ⟨rfl, hdone, -⟩ := conv_finish_ne hfin
    rw [hdone]
    unfold convAtStep
    split_ifs <;> simp

theorem refInv_afterMove (hs : s.RefInv) (f : Finish) : (envFinish f s.takeMove).RefInv :=
  refInv_of_reg_written (inv_afterMove hs.inv f) hs.runsReference hs.seqInRange
    (fun r hr => by simpa using hs.reg_written r hr) (convAtStep_finish f.conv hs.conversion) hs.channel

/-! ### Every micro-operation is admitted at its step -/

/-- Under the invariant no micro-operation of the reference sequence meets a reason of R27, R28 or R46 to refuse it. -/
theorem State.RefInv.exec_ne_refused (hs : s.RefInv) (hi : StandsAt s.params s.seq.toNat i) (r : Refusal) :
    exec i s ≠ .refused r := by
  have hlast := hs.seq_ne_31
  have hconv := hs.conversion
  have hch := hs.channel
  intro h
  cases i with
  | sel ch =>
    have hfree : s.env.conv ≠ .busy := by
      obtain ⟨hk, -⟩ | ⟨hk, -⟩ | ⟨hk, -⟩ := hi <;> simpa [convAtStep, hk] using hconv
    obtain ⟨hbusy, -⟩ | ⟨-, hq, -⟩ := execSel_eq_refused.1 h
    · exact hfree hbusy
    · exact hlast hq
  | conv =>
    have hfree : s.env.conv ≠ .busy := by obtain hk | hk | hk := hi <;> simpa [convAtStep, hk] using hconv
    have hsel : s.env.ch ≠ none := by obtain hk | hk | hk := hi <;> simp_all [channelAtStep]
    obtain (⟨hnone, -⟩ | ⟨-, hbusy, -⟩) | ⟨-, -, hq, -⟩ := execConv_eq_refused.1 h
    · exact hsel hnone
    · exact hfree hbusy
    · exact hlast hq
  | dly => exact hlast (execDly_eq_refused.1 h).2.1
  | wait =>
    have hbegun : s.env.conv ≠ .idle := by obtain hk | hk | hk := hi <;> simpa [convAtStep, hk] using hconv
    obtain ⟨hidle, -⟩ | ⟨-, hq, -⟩ := execWait_eq_refused.1 h
    · exact hbegun hidle
    · exact hlast hq
  | rd10 d =>
    have hdone : s.env.conv = .done := by
      cases d with
      | offset => simpa [convAtStep, show s.seq.toNat = 4 from hi] using hconv
      | speed => simpa [convAtStep, show s.seq.toNat = 9 from hi] using hconv
    obtain ⟨hne, -⟩ | ⟨-, hq, -⟩ := execRd10_eq_refused.1 h
    · exact hne hdone
    · exact hlast hq
  | rd8 =>
    have hdone : s.env.conv = .done := by simpa [convAtStep, show s.seq.toNat = 14 from hi] using hconv
    obtain ⟨hne, -⟩ | ⟨-, hq, -⟩ := execRd8_eq_refused.1 h
    · exact hne hdone
    · exact hlast hq
  | sin8 => exact hlast (execSin8_eq_refused.1 h).1
  | usin8 => exact hi
  | pwcalc =>
    have hk : s.seq.toNat = 16 := hi
    obtain ⟨ho | ha | hv, -⟩ | ⟨-, -, -, hq, -⟩ := execPwcalc_eq_refused.1 h
    · exact hs.offsetWritten (by omega) ho
    · exact hs.amplWritten (by omega) ha
    · exact hs.sineWritten (by omega) hv
    · exact hlast hq
  | phadv =>
    have hk : s.seq.toNat = 17 := hi
    obtain ⟨hv, -⟩ | ⟨-, hq, -⟩ := execPhadv_eq_refused.1 h
    · exact hs.speedWritten (by omega) hv
    · exact hlast hq
  | pulse =>
    have hk : s.seq.toNat = 18 := hi
    obtain ⟨-, hw, -⟩ | ⟨hh, -, hhigh, -⟩ | ⟨-, hq, -⟩ := execPulse_eq_refused.1 h
    · exact hs.pwWritten (by omega) hw
    · exact absurd (hs.inv.lineHighOnlyInPulse hhigh) (by simp [hh])
    · exact hlast hq
  | loop => exact execLoop_ne_refused h

/-! ### Every step keeps the invariant -/

/-- A meaning of the reference sequence leaves the converter and the channel as the step it leads to needs them (R106,
R147). -/
theorem State.RefInv.exec_keeps_acquisition (hs : s.RefInv) (hi : StandsAt s.params s.seq.toNat i)
    (h : exec i s = .next t) : convAtStep t.seq.toNat t.env.conv ∧ channelAtStep s.params t.seq.toNat t.env.ch := by
  have hconv := hs.conversion
  have hch := hs.channel
  have hq := toNat_succ_seq hs.seq_ne_31
  cases i with
  | sel ch =>
    obtain ⟨hc, -, rfl⟩ := execSel_eq_next.1 h
    obtain ⟨hk, rfl⟩ | ⟨hk, rfl⟩ | ⟨hk, rfl⟩ := hi <;> simp [convAtStep, channelAtStep, hk, hc]
  | conv =>
    obtain ⟨-, -, -, rfl⟩ := execConv_eq_next.1 h
    obtain hk | hk | hk := hi <;> simp_all [convAtStep, channelAtStep]
  | dly =>
    obtain ⟨-, rfl⟩ | ⟨-, rfl⟩ | ⟨-, -, rfl⟩ := execDly_eq_next.1 h
    · exact ⟨hconv, hch⟩
    · exact ⟨hconv, hch⟩
    · obtain hk | hk | hk := hi <;> simp_all [convAtStep, channelAtStep]
  | wait =>
    obtain ⟨hdone, -, rfl⟩ | ⟨-, rfl⟩ := execWait_eq_next.1 h
    · obtain hk | hk | hk := hi <;> simp_all [convAtStep, channelAtStep]
    · exact ⟨hconv, hch⟩
  | rd10 d =>
    obtain ⟨hdone, -, rfl⟩ := execRd10_eq_next.1 h
    cases d with
    | offset =>
      have hk : s.seq.toNat = 4 := hi
      simp_all [convAtStep, channelAtStep]
    | speed =>
      have hk : s.seq.toNat = 9 := hi
      simp_all [convAtStep, channelAtStep]
  | rd8 =>
    have hk : s.seq.toNat = 14 := hi
    obtain ⟨hdone, -, rfl⟩ := execRd8_eq_next.1 h
    simp_all [convAtStep, channelAtStep]
  | sin8 =>
    have hk : s.seq.toNat = 15 := hi
    obtain ⟨-, rfl⟩ := execSin8_eq_next.1 h
    simp_all [convAtStep, channelAtStep]
  | usin8 => exact hi.elim
  | pwcalc =>
    have hk : s.seq.toNat = 16 := hi
    obtain ⟨_, _, _, -, -, -, -, rfl⟩ := execPwcalc_eq_next.1 h
    simp_all [convAtStep, channelAtStep]
  | phadv =>
    have hk : s.seq.toNat = 17 := hi
    obtain ⟨_, -, -, rfl⟩ := execPhadv_eq_next.1 h
    simp_all [convAtStep, channelAtStep]
  | pulse =>
    have hk : s.seq.toNat = 18 := hi
    obtain ⟨_, -, -, -, rfl⟩ | ⟨-, rfl⟩ | ⟨-, -, rfl⟩ := execPulse_eq_next.1 h
    · exact ⟨hconv, hch⟩
    · exact ⟨hconv, hch⟩
    · simp_all [convAtStep, channelAtStep]
  | loop =>
    have hk : s.seq.toNat = 19 := hi
    obtain rfl := execLoop_eq_next.1 h
    simp_all [convAtStep, channelAtStep]

/-- SEQ stays below 20: the step on from 19 is LOOP's, back to 0 (R146). -/
theorem State.RefInv.exec_seq_in_range (hs : s.RefInv) (hi : (referenceProgram s.params)[s.seq.toNat]? = some i)
    (h : exec i s = .next t) : t.seq.toNat < Config.seqLen := by
  have hrange : s.seq.toNat < 20 := hs.seqInRange
  obtain ⟨-, hsame⟩ | ⟨-, hzero⟩ | ⟨hloop, hlast, hnext⟩ := exec_seq_cases h
  · rw [hsame]; exact hs.seqInRange
  · rw [hzero]; decide
  · have hk : s.seq.toNat ≠ 19 := fun hk => by rw [hk] at hi; cases hi; exact hloop rfl
    rw [hnext, toNat_succ_seq hlast]
    exact show s.seq.toNat + 1 < 20 by omega

/-- A register due at the next step has been written before, and keeps its value, or is written now. -/
theorem State.RefInv.exec_keeps_reg_written (hs : s.RefInv) (hi : (referenceProgram s.params)[s.seq.toNat]? = some i)
    (h : exec i s = .next t) (r : Reg) (hr : r.dueAt ≤ t.seq.toNat) : t.reg r ≠ none := by
  by_cases hw : writtenReg i = some r
  · exact exec_writes_value h hw
  · have hnow : r.dueAt ≠ s.seq.toNat + 1 := fun hk => hw (reference_writes_due_reg hi hk)
    have hnext := exec_seq_le h
    rw [exec_keeps_reg h hw]
    exact hs.reg_written r (by omega)

/-- Every meaning of the reference sequence keeps its invariant. -/
theorem State.RefInv.exec_keeps (hs : s.RefInv) (hf : fetch s = .next i) (h : exec i s = .next t) : t.RefInv := by
  have hi := reference_at_seq hs.runsReference hf
  obtain ⟨hparams, huop, -, -⟩ := exec_keeps_arguments h
  obtain ⟨hconv, hch⟩ := hs.exec_keeps_acquisition (standsAt_of_reference hi) h
  exact refInv_of_reg_written (exec_keeps_inv hs.inv hf h) (huop.trans (hs.runsReference.trans (hparams ▸ rfl)))
    (hs.exec_seq_in_range hi h) (hs.exec_keeps_reg_written hi h) hconv (hparams ▸ hch)

/-- Under the invariant the micro-operation at SEQ runs, and the invariant holds again. -/
theorem State.RefInv.exec_runs (hs : s.RefInv) (hf : fetch s = .next i) : ∃ t, exec i s = .next t ∧ t.RefInv := by
  have hi := standsAt_of_reference (reference_at_seq hs.runsReference hf)
  cases h : exec i s with
  | next t => exact ⟨t, rfl, hs.exec_keeps hf h⟩
  | fault f => cases f
  | refused r => exact absurd h (hs.exec_ne_refused hi r)

/-- A reset ahead releases ready collaborators, so it leads to step 0 with the invariant (R182). -/
theorem State.RefInv.resetCore_keeps (hs : s.RefInv) {e : Env} (he : s.nextMove = .reset e) :
    (resetCore e s.takeMove).RefInv :=
  refInv_at_step_zero hs.runsReference rfl rfl (hs.inv.resetsReleaseReady e (reset_mem_moves he))
    (resetsReleaseReady_tail hs.inv.resetsReleaseReady)

theorem resetsReleaseReady_of_noReset {p : Params} {ms : List EnvMove} (h : NoReset ms) : ResetsReleaseReady p ms :=
  fun _ he => nomatch h _ he

/-- Settles O45: a boundary is a step 0 with ready collaborators; a step is a reset, or a move and a meaning that runs. -/
theorem referenceSequenceIsNeverRefused : Obligations.ReferenceSequenceIsNeverRefused := by
  refine ⟨resetMeetsTheInvariants.2.1, fun s hb => ?boundary, fun s hs => ?step⟩
  case boundary =>
    exact refInv_at_step_zero hb.runsReference hb.atStepZero hb.notHeld hb.envReady (resetsReleaseReady_of_noReset hb.noReset)
  case step =>
    cases hm : s.nextMove with
    | reset e => exact ⟨_, step_reset hm, hs.resetCore_keeps hm⟩
    | run f =>
      obtain ⟨i, hi⟩ := hs.exists_fetch
      obtain ⟨t, hx, ht⟩ := (refInv_afterMove hs f).exec_runs (i := i) (by simpa using hi)
      exact ⟨t, (step_run hm hi).trans hx, ht⟩

end Sys2Proof.Machine
end

section
/-! One iteration in numbers (44_emit_sequencer.md R148), and step by step with an environment that finishes everything at
once: the settlements of O46 and O48. -/

namespace Sys2Proof.Machine

/-! ### One iteration in numbers (R148) -/

/-- Settles O46: the iteration's phase and width, which hold for any gains, in the numbers of the reference gains. -/
theorem iterationIsR148 : Obligations.IterationIsR148 := by
  intro s t n hb hp h
  obtain ⟨x, hx⟩ := iterationEnd_of_firstReturn hb h
  refine ⟨x.offset, x.speed, x.ampl, x.width s, ?width, ?phase, hx.trace, hx.offset, hx.speed, hx.ampl, hx.sine, hx.pw,
    hx.atBoundary⟩
  case width => rw [Samples.width, pulseWidth, pulseSum_eq hp, scaledSine_eq hp]; rfl
  case phase =>
    obtain ⟨-, -, -, hshift⟩ := hp
    rw [hx.phase]
    apply BitVec.eq_of_toNat_eq
    rw [toNat_phaseAdvance, hshift, BitVec.toNat_ofNat, Nat.mod_mod]
    rfl

/-! ### Runs of the reference sequence whose moves finish everything (R148, R171) -/

variable {s t u : State} {i : Instr} {ch : Channel} {ms : List EnvMove} {n : Nat}

/-- One run after another. -/
theorem steps_trans {m : Nat} (hm : steps m s = .next t) (hn : steps n t = .next u) : steps (n + m) s = .next u := by
  rw [Nat.add_comm, steps_add, hm, andThen_next, hn]

/-- A step of the reference sequence is below 20, so never the last step a sequence can have. -/
theorem seq_ne_31_of_reference {p : Params} {q : StepNo} (h : (referenceProgram p)[q.toNat]? = some i) : q ≠ 31 := by
  rintro rfl
  cases h

/-- The move that finishes everything. -/
def finishEach : Finish := { conv := true, delay := true, pulse := true }

/-- A run whose first move finishes everything begins with the meaning of the micro-operation at SEQ after that move. -/
theorem steps_of_finishAll (hu : s.RunsReference) (hm : s.moves = finishAll :: ms)
    (hi : (referenceProgram s.params)[s.seq.toNat]? = some i)
    (hx : exec i (envFinish finishEach { s with moves := ms, ticks := s.ticks + 1 }) = .next t)
    (hn : steps n t = .next u) : steps (n + 1) s = .next u := by
  have hmove : s.nextMove = .run finishEach := by rw [State.nextMove, hm]; rfl
  have htake : s.takeMove = { s with moves := ms, ticks := s.ticks + 1 } := by rw [State.takeMove, hm]; rfl
  have hstep : step s = .next t := by rw [step_run hmove (fetch_of_reference hu hi), htake, hx]
  exact andThen_eq_next.2 ⟨t, hstep, hn⟩

/-- With the line low the move finishes the conversion and the request and touches no line. -/
theorem steps_of_low (hu : s.RunsReference) (hl : s.env.level s.params.pulseLine = false) (hm : s.moves = finishAll :: ms)
    (hi : (referenceProgram s.params)[s.seq.toNat]? = some i)
    (hx : exec i { s with
      env := { s.env with conv := s.env.conv.finish true }, hold := s.hold.finish finishEach
      moves := ms, ticks := s.ticks + 1 } = .next t)
    (hn : steps n t = .next u) : steps (n + 1) s = .next u := by
  refine steps_of_finishAll hu hm hi ?_ hn
  rw [envFinish, finishPulse_low _ _ _ hl]
  exact hx

theorem conv_finish_of_ne_busy {c : Conv} (f : Bool) (h : c ≠ .busy) : c.finish f = c :=
  by_contra fun hne => h (conv_finish_ne hne).1

/-- With nothing in flight the move only uses up the script. -/
theorem steps_of_settled (hu : s.RunsReference) (hh : s.hold = .none) (he : s.env.ready s.params)
    (hm : s.moves = finishAll :: ms) (hi : (referenceProgram s.params)[s.seq.toNat]? = some i)
    (hx : exec i { s with moves := ms, ticks := s.ticks + 1 } = .next t) (hn : steps n t = .next u) :
    steps (n + 1) s = .next u := by
  have hconv := conv_finish_of_ne_busy true he.1
  have hhold : s.hold.finish finishEach = s.hold := by rw [hh]; rfl
  refine steps_of_low hu he.2 hm hi ?_ hn
  rw [hconv, hhold]
  exact hx

/-! ### The acquisitions (R106) -/

theorem exec_dly_of_slept (hh : s.hold = .slept) (hq : s.seq ≠ 31) :
    exec .dly s = .next { s with hold := .none, seq := s.seq + 1 } := execDly_eq_next.2 (.inr (.inr ⟨hh, hq, rfl⟩))

/-- From CONV to WAIT in four steps: the conversion is finished by the move before DLY's call, the delay by the one before
its completion. -/
theorem steps_convert (hu : s.RunsReference) (hh : s.hold = .none) (he : s.env.ready s.params) (hch : s.env.ch ≠ none)
    (hm : s.moves = List.replicate 4 finishAll ++ ms) (hconv : (referenceProgram s.params)[s.seq.toNat]? = some .conv)
    (hdly : (referenceProgram s.params)[(s.seq + 1).toNat]? = some .dly)
    (hwait : (referenceProgram s.params)[(s.seq + 1 + 1).toNat]? = some .wait) :
    steps 4 s = .next { s with
      env := { s.env with conv := .done }, hold := .none, seq := s.seq + 1 + 1 + 1
      trace := s.trace ++ [.start, .sleep s.params.tSampleUs, .ready], moves := ms, ticks := s.ticks + 4 } := by
  rw [List.append_cons s.trace, List.append_cons (s.trace ++ [_])]
  refine steps_of_settled (t := { s with
      env := { s.env with conv := .busy }, seq := s.seq + 1, trace := s.trace ++ [.start]
      moves := List.replicate 3 finishAll ++ ms, ticks := s.ticks + 1 })
    hu hh he hm hconv (execConv_eq_next.2 ⟨hch, he.1, seq_ne_31_of_reference hconv, rfl⟩) ?_
  refine steps_of_low (t := { s with
      env := { s.env with conv := .done }, hold := .sleeping, seq := s.seq + 1
      trace := s.trace ++ [.start] ++ [.sleep s.params.tSampleUs]
      moves := List.replicate 2 finishAll ++ ms, ticks := s.ticks + 2 })
    hu he.2 rfl hdly (execDly_eq_next.2 (.inl ⟨finish_eq_none.2 hh, rfl⟩)) ?_
  refine steps_of_low (t := { s with
      env := { s.env with conv := .done }, hold := .none, seq := s.seq + 1 + 1
      trace := s.trace ++ [.start] ++ [.sleep s.params.tSampleUs], moves := finishAll :: ms, ticks := s.ticks + 3 })
    hu he.2 rfl hdly (exec_dly_of_slept rfl (seq_ne_31_of_reference hdly)) ?_
  exact steps_of_low hu he.2 rfl hwait (execWait_eq_next.2 (.inl ⟨rfl, seq_ne_31_of_reference hwait, rfl⟩)) rfl

/-- The four micro-operations of an acquisition before its read follow each other (R73, R106). -/
theorem acquisition_of_sel {p : Params} {q : StepNo} (h : StandsAt p q.toNat (.sel ch)) :
    (referenceProgram p)[q.toNat]? = some (.sel ch) ∧ (referenceProgram p)[(q + 1).toNat]? = some .conv ∧
    (referenceProgram p)[(q + 1 + 1).toNat]? = some .dly ∧ (referenceProgram p)[(q + 1 + 1 + 1).toNat]? = some .wait := by
  obtain ⟨hq, rfl⟩ | ⟨hq, rfl⟩ | ⟨hq, rfl⟩ := h
  · obtain rfl : q = 0 := BitVec.eq_of_toNat_eq hq
    exact ⟨rfl, rfl, rfl, rfl⟩
  · obtain rfl : q = 5 := BitVec.eq_of_toNat_eq hq
    exact ⟨rfl, rfl, rfl, rfl⟩
  · obtain rfl : q = 10 := BitVec.eq_of_toNat_eq hq
    exact ⟨rfl, rfl, rfl, rfl⟩

/-- An acquisition up to its read takes five steps: SEL, and the four from CONV to WAIT. -/
theorem steps_acquire {q : StepNo} (hu : s.RunsReference) (hh : s.hold = .none) (he : s.env.ready s.params)
    (hm : s.moves = List.replicate 5 finishAll ++ ms) (hq : s.seq = q) (hi : StandsAt s.params q.toNat (.sel ch)) :
    steps 5 s = .next { s with
      env := { s.env with ch := some ch, conv := .done }, hold := .none, seq := q + 1 + 1 + 1 + 1
      trace := s.trace ++ [.sel ch, .start, .sleep s.params.tSampleUs, .ready], moves := ms, ticks := s.ticks + 5 } := by
  subst hq
  obtain ⟨hsel, hconv, hdly, hwait⟩ := acquisition_of_sel hi
  rw [List.append_cons]
  exact steps_of_settled (t := { s with
      env := { s.env with ch := some ch }, seq := s.seq + 1, trace := s.trace ++ [.sel ch]
      moves := List.replicate 4 finishAll ++ ms, ticks := s.ticks + 1 })
    hu hh he hm hsel (execSel_eq_next.2 ⟨he.1, seq_ne_31_of_reference hsel, rfl⟩)
    (steps_convert hu hh he nofun rfl hconv hdly hwait)

theorem exec_rd10_of_answer {d : Dest10} {v : Sample10} {vs : List Sample10} (hc : s.env.conv = .done) (hq : s.seq ≠ 31)
    (h10 : s.answers10 = v :: vs) : exec (.rd10 d) s = .next { writeDest d v s with
      trace := s.trace ++ [.read10 v], seq := s.seq + 1, answers10 := vs, reads := s.reads + 1 } :=
  execRd10_eq_next.2 ⟨hc, hq, by rw [answer10_scripted s v vs h10, h10]; rfl⟩

theorem exec_rd8_of_answer {v : Sample8} {vs : List Sample8} (hc : s.env.conv = .done) (hq : s.seq ≠ 31)
    (h8 : s.answers8 = v :: vs) : exec .rd8 s = .next { s with
      ampl := some v, trace := s.trace ++ [.read8 v], seq := s.seq + 1, answers8 := vs, reads := s.reads + 1 } :=
  execRd8_eq_next.2 ⟨hc, hq, by rw [answer8_scripted s v vs h8, h8]; rfl⟩

/-- The five events of an acquisition, the last of them its read (R106, R148). -/
def acquisitionEvents (p : Params) (ch : Channel) (read : Event) : List Event :=
  [.sel ch, .start, .sleep p.tSampleUs, .ready, read]

theorem acquisitionEvents_eq_append (p : Params) (ch : Channel) (read : Event) :
    acquisitionEvents p ch read = [Event.sel ch, Event.start, Event.sleep p.tSampleUs, Event.ready] ++ [read] := rfl

/-- The events of an iteration are those of its three acquisitions and the pulse. -/
theorem iterationEvents_eq_append (p : Params) (off spd : Sample10) (amp : Sample8) (w : Duration) :
    iterationEvents p off spd amp w = acquisitionEvents p p.chOffset (.read10 off) ++
      (acquisitionEvents p p.chSpeed (.read10 spd) ++
        (acquisitionEvents p p.chAmpl (.read8 amp) ++ [.pulse p.pulseLine w])) := rfl

/-- A full-precision acquisition takes six steps and writes the script's next answer. -/
theorem steps_sample10 {d : Dest10} {q : StepNo} {v : Sample10} {vs : List Sample10} (hu : s.RunsReference)
    (hh : s.hold = .none) (he : s.env.ready s.params) (hm : s.moves = List.replicate 6 finishAll ++ ms)
    (h10 : s.answers10 = v :: vs) (hq : s.seq = q) (hi : StandsAt s.params q.toNat (.sel ch))
    (hread : (referenceProgram s.params)[(q + 1 + 1 + 1 + 1).toNat]? = some (.rd10 d)) :
    steps 6 s = .next { writeDest d v s with
      env := { s.env with ch := some ch, conv := .done }, hold := .none, seq := q + 1 + 1 + 1 + 1 + 1
      trace := s.trace ++ acquisitionEvents s.params ch (.read10 v), moves := ms
      answers10 := vs, reads := s.reads + 1, ticks := s.ticks + 6 } := by
  rw [acquisitionEvents_eq_append, ← List.append_assoc]
  refine steps_trans (m := 5) (steps_acquire (ms := finishAll :: ms) hu hh he hm hq hi) ?_
  refine steps_of_settled hu rfl ⟨nofun, he.2⟩ rfl hread
    (exec_rd10_of_answer rfl (seq_ne_31_of_reference hread) h10) ?_
  cases d <;> rfl

/-- The low-precision acquisition. -/
theorem steps_sample8 {q : StepNo} {v : Sample8} {vs : List Sample8} (hu : s.RunsReference)
    (hh : s.hold = .none) (he : s.env.ready s.params) (hm : s.moves = List.replicate 6 finishAll ++ ms)
    (h8 : s.answers8 = v :: vs) (hq : s.seq = q) (hi : StandsAt s.params q.toNat (.sel ch))
    (hread : (referenceProgram s.params)[(q + 1 + 1 + 1 + 1).toNat]? = some .rd8) :
    steps 6 s = .next { s with
      ampl := some v, env := { s.env with ch := some ch, conv := .done }, hold := .none, seq := q + 1 + 1 + 1 + 1 + 1
      trace := s.trace ++ acquisitionEvents s.params ch (.read8 v), moves := ms
      answers8 := vs, reads := s.reads + 1, ticks := s.ticks + 6 } := by
  rw [acquisitionEvents_eq_append, ← List.append_assoc]
  refine steps_trans (m := 5) (steps_acquire (ms := finishAll :: ms) hu hh he hm hq hi) ?_
  exact steps_of_settled hu rfl ⟨nofun, he.2⟩ rfl hread (exec_rd8_of_answer rfl (seq_ne_31_of_reference hread) h8) rfl

/-! ### The pulse (R140) -/

theorem exec_pulse_of_pulsed (hh : s.hold = .pulsed) (hq : s.seq ≠ 31) :
    exec .pulse s = .next { s with hold := .none, seq := s.seq + 1 } := execPulse_eq_next.2 (.inr (.inr ⟨hh, hq, rfl⟩))

/-- PULSE takes two steps, the call and the completion, and leaves ENV as it was, whether or not the line rose. -/
theorem steps_pulse {w : Duration} (hu : s.RunsReference) (hh : s.hold = .none) (he : s.env.ready s.params)
    (hm : s.moves = finishAll :: finishAll :: ms) (hi : (referenceProgram s.params)[s.seq.toNat]? = some .pulse)
    (hw : s.pw = some w) :
    steps 2 s = .next { s with
      hold := .none, seq := s.seq + 1, trace := s.trace ++ [.pulse s.params.pulseLine w]
      moves := ms, ticks := s.ticks + 2 } := by
  have hconv := conv_finish_of_ne_busy true he.1
  refine steps_of_settled (t := { s with
      env := s.env.drive s.params.pulseLine (pulseRises w (s.ticks + 1)), hold := .pulsing
      trace := s.trace ++ [.pulse s.params.pulseLine w], moves := finishAll :: ms, ticks := s.ticks + 1 })
    hu hh he hm hi (execPulse_eq_next.2 (.inl ⟨w, hh, hw, he.2, rfl⟩)) ?_
  refine steps_of_finishAll hu rfl hi (exec_pulse_of_pulsed rfl (seq_ne_31_of_reference hi)) ?_
  simp [envFinish, finishEach, finishPulse_drive _ _ _ he.2, hconv]

/-! ### The whole iteration -/

/-- The part of an iteration after the samples, from SIN8 to LOOP, takes six steps. -/
theorem steps_emit {off spd : Sample10} {amp : Sample8} (hu : s.RunsReference) (hh : s.hold = .none)
    (he : s.env.ready s.params) (hm : s.moves = List.replicate 6 finishAll ++ ms) (hq : s.seq = 15)
    (ho : s.offset = some off) (hv : s.speed = some spd) (ha : s.ampl = some amp) :
    steps 6 s = .next { s with
      phase := phaseAdvance s.params s.phase spd, sine := some s.iterationSine
      pw := some (pulseWidth s.params off s.iterationSine amp), hold := .none, seq := 0
      trace := s.trace ++ [.pulse s.params.pulseLine (pulseWidth s.params off s.iterationSine amp)]
      moves := ms, ticks := s.ticks + 6 } := by
  refine steps_of_settled (i := .sin8) (t := { s with
      sine := some s.iterationSine, seq := 16, moves := List.replicate 5 finishAll ++ ms, ticks := s.ticks + 1 })
    hu hh he hm (by rw [hq]; rfl) (execSin8_eq_next.2 ⟨by rw [hq]; decide, by rw [hq]; rfl⟩) ?_
  refine steps_of_settled (i := .pwcalc) (t := { s with
      sine := some s.iterationSine, pw := some (pulseWidth s.params off s.iterationSine amp), seq := 17
      moves := List.replicate 4 finishAll ++ ms, ticks := s.ticks + 2 })
    hu hh he rfl rfl (execPwcalc_eq_next.2 ⟨off, amp, s.iterationSine, ho, ha, rfl, nofun, rfl⟩) ?_
  refine steps_of_settled (i := .phadv) (t := { s with
      phase := phaseAdvance s.params s.phase spd, sine := some s.iterationSine
      pw := some (pulseWidth s.params off s.iterationSine amp), seq := 18
      moves := List.replicate 3 finishAll ++ ms, ticks := s.ticks + 3 })
    hu hh he rfl rfl (execPhadv_eq_next.2 ⟨spd, hv, nofun, rfl⟩) ?_
  refine steps_trans (m := 2) (steps_pulse (ms := finishAll :: ms) hu hh he rfl rfl rfl) ?_
  exact steps_of_settled (i := .loop) hu rfl he rfl rfl (execLoop_eq_next.2 rfl) rfl

/-- Settles O48: three acquisitions of six steps and the six steps after them. -/
theorem promptIterationInTwentyFourSteps : Obligations.PromptIterationInTwentyFourSteps := by
  intro s rest off spd rest10 amp rest8 hb hm h10 h8 sine w
  obtain ⟨hu, hq, hh, he, -⟩ := hb
  rw [iterationEvents_eq_append, ← List.append_assoc, ← List.append_assoc, ← List.append_assoc, hh, hq]
  refine steps_trans (m := 6) (steps_sample10 (ms := List.replicate 18 finishAll ++ rest) hu hh he hm h10 hq
    (.inl ⟨rfl, rfl⟩) rfl) ?_
  refine steps_trans (m := 6) (steps_sample10 (ms := List.replicate 12 finishAll ++ rest) (q := 5) hu rfl
    ⟨nofun, he.2⟩ rfl rfl rfl (.inr (.inl ⟨rfl, rfl⟩)) rfl) ?_
  refine steps_trans (m := 6) (steps_sample8 (ms := List.replicate 6 finishAll ++ rest) (q := 10) hu rfl
    ⟨nofun, he.2⟩ rfl h8 rfl (.inr (.inr ⟨rfl, rfl⟩)) rfl) ?_
  exact steps_emit hu rfl ⟨nofun, he.2⟩ rfl rfl rfl rfl rfl

end Sys2Proof.Machine
end

section
/-! Exceptions (60_exceptions.md R162, R163): a move of the environment that finishes nothing in flight, and a WAIT whose
conversion never completes; the settlements of O26 and O50. -/

namespace Sys2Proof.Machine

variable {s : State} {f : Finish} {m : EnvMove} {ms : List EnvMove}

/-! ### Moves that finish nothing (R163) -/

/-- A request that waits for no completion strobe stays as it is. -/
theorem hold_finish_of_not_running {k : Hold} (f : Finish) (hs : k ≠ .sleeping) (hp : k ≠ .pulsing) : k.finish f = k := by
  by_contra hne
  rcases hold_finish_ne hne with ⟨h, -⟩ | ⟨h, -⟩
  · exact hs h
  · exact hp h

/-- With the line low, a move that finishes neither the conversion nor the outstanding request changes nothing. -/
theorem envFinish_eq_self (hc : s.env.conv.finish f.conv = s.env.conv) (hh : s.hold.finish f = s.hold)
    (hl : s.env.level s.params.pulseLine = false) : envFinish f s = s := by
  rw [envFinish, finishPulse_low _ _ _ hl, hc, hh]

/-- Settles O26: what is not in flight a strobe cannot finish. -/
theorem strayStrobeHasNoEffect : Obligations.StrayStrobeHasNoEffect := by
  intro s f hc hs hp hl
  exact envFinish_eq_self (conv_finish_of_ne_busy f.conv hc) (hold_finish_of_not_running f hs hp) hl

/-! ### A conversion that never completes (R162) -/

/-- A move that leaves the conversion is the environment's, and does not finish it. -/
theorem exists_run_of_leavesConversion (h : m.leavesConversion = true) : ∃ f, m = .run f ∧ f.conv = false := by
  cases m with
  | run f => exact ⟨f, rfl, by simpa [EnvMove.leavesConversion] using h⟩
  | reset e => cases h

/-- One step of the hang: WAIT is held, and only the move is used and the step counted. -/
theorem step_wait_of_leavesConversion (hi : fetch s = .next .wait) (hc : s.env.conv = .busy) (hh : s.hold = .none)
    (hl : s.env.level s.params.pulseLine = false) (hm : s.moves = m :: ms) (hleaves : m.leavesConversion = true) :
    step s = .next { s with moves := ms, ticks := s.ticks + 1 } := by
  obtain ⟨f, rfl, hf⟩ := exists_run_of_leavesConversion hleaves
  have hmove : s.nextMove = .run f := by rw [State.nextMove, hm]
  have htake : s.takeMove = { s with moves := ms, ticks := s.ticks + 1 } := by rw [State.takeMove, hm]; rfl
  have hstay : envFinish f s.takeMove = s.takeMove :=
    envFinish_eq_self (by rw [takeMove_env, hc, hf]; rfl) (by rw [takeMove_hold, hh]; rfl) hl
  rw [step_run hmove hi, hstay, htake]
  exact execWait_eq_next.2 (.inr ⟨hc, rfl⟩)

/-- Settles O50, by induction on the moves: each step of the hang leaves a state in which the hang goes on. -/
theorem hangHoldsForEver : Obligations.HangHoldsForEver := by
  intro s ms rest hlegal hw hc hh hl hm hleaves
  induction ms generalizing s with
  | nil =>
    obtain rfl : s.moves = rest := hm
    rfl
  | cons m ms ih =>
    obtain ⟨hfirst, hrest⟩ := List.forall_mem_cons.1 hleaves
    have hi : fetch s = .next .wait := fetch_eq_next.2 ⟨List.all_eq_true.2 hlegal, hw⟩
    have hstep : step s = .next { s with moves := ms ++ rest, ticks := s.ticks + 1 } :=
      step_wait_of_leavesConversion hi hc hh hl hm hfirst
    have hticks : s.ticks + (m :: ms).length = s.ticks + 1 + ms.length := Nat.add_right_comm s.ticks ms.length 1
    rw [hticks]
    exact andThen_eq_next.2 ⟨_, hstep, ih _ hlegal hw hc hh hl rfl hrest⟩

end Sys2Proof.Machine
end

section
/-! Reset (70_reset_and_hazards.md): what it leaves (R180, R181) and the first iteration after it (R183); the settlements of
O24, O25 and O53. -/

namespace Sys2Proof.Machine

/-! ### Reset (R180 to R182) -/

/-- Settles O24: a reset's step is `resetCore`, and its clock has the quiet ports. -/
theorem resetOverridesEverything : Obligations.ResetOverridesEverything := by
  intro s e hm
  have hports : portsOfStep s (resetCore e s.takeMove) = PortsOut.quiet := by simp only [portsOfStep, hm]
  exact ⟨_, step_reset hm, hports, rfl, rfl, rfl, rfl, rfl, rfl, rfl, rfl, rfl, rfl, rfl, rfl⟩

/-- Settles O25: the fields of the reset state one by one; every line is low. -/
theorem resetStateIsR34 : Obligations.ResetStateIsR34 := by
  refine ⟨rfl, rfl, fun r hr => ?_, rfl, rfl, level_atReset _, rfl, rfl⟩
  cases r with
  | phase => exact absurd rfl hr
  | offset | speed | ampl | sine | pw => rfl

/-! ### The first iteration after reset (R183) -/

/-- The reset state of a machine with any parameters, under any moves without a reset and any answers, is a boundary. -/
theorem reset_atBoundary (p : Params) {ms : List EnvMove} (as : List Sample10) (bs : List Sample8) (hms : NoReset ms) :
    { State.reset with
      params := p, uop := referenceWords p, moves := ms, answers10 := as, answers8 := bs }.AtBoundary where
  runsReference := rfl
  atStepZero := rfl
  notHeld := rfl
  envReady := ⟨nofun, level_atReset p.pulseLine⟩
  noReset := hms

/-- At phase 0 the signed sine is -1 in both forms of the square (R83, R88). -/
theorem sin8_angleOf_zero (impl : SqImpl) : sin8 impl (angleOf 0) = 0xFF := by
  cases impl <;> decide

/-- Settles O53: the first iteration is R148's at phase 0, where the sine is -1 and the advance does not wrap. -/
theorem firstPulseAfterReset : Obligations.FirstPulseAfterReset := by
  intro p ms as bs n t hp hms h
  obtain ⟨off, spd, amp, w, hw, hphase, htrace, -, -, -, hsine, hpw, -⟩ :=
    iterationIsR148 _ _ _ (reset_atBoundary p as bs hms) hp h
  refine ⟨off, spd, amp, w, ?width, htrace, hsine.trans (congrArg some (sin8_angleOf_zero p.sqImpl)), hpw, ?phase⟩
  case width =>
    have hneg : (sin8 p.sqImpl (angleOf 0)).toInt * (amp.toNat : Int) = -(amp.toNat : Int) := by
      rw [sin8_angleOf_zero, show (0xFF : Sine).toInt = -1 from rfl, neg_one_mul]
    rw [hw, mul_comm (2 : Int), ← hneg]
    rfl
  case phase =>
    have hspd : spd.toNat < 1024 := spd.isLt
    have hzero : State.reset.phase.toNat = 0 := rfl
    rw [hphase, hzero, BitVec.toNat_ofNat]
    omega

end Sys2Proof.Machine
end

section
/-! Why every iteration of the reference sequence ends (70_reset_and_hazards.md R189): a step ends it, brings its end nearer,
or is held by an operation that the environment has not finished; the settlements of O49 and O55. -/

namespace Sys2Proof.Machine

variable {s t u : State} {i : Instr} {f : Finish} {e : Nat → EnvMove} {n : Nat}

/-! ### Steps left in an iteration (R189; log entry 5) -/

/-- The steps a micro-operation takes when the environment finishes everything at once: DLY and PULSE make their call in one
and complete in the next (log entry 5). -/
def promptSteps : Instr → Nat
  | .dly | .pulse => 2
  | _ => 1

theorem promptSteps_pos (i : Instr) : 0 < promptSteps i := by cases i <;> exact Nat.succ_pos _

/-- The steps the reference sequence takes from step `k` to its end, each micro-operation its prompt steps. -/
def stepsFrom (p : Params) (k : Nat) : Nat := (((referenceProgram p).drop k).map promptSteps).sum

/-- The steps to the end of the iteration when nothing delays it; a request outstanding is a call already made. -/
def State.stepsLeft (s : State) : Nat := stepsFrom s.params s.seq.toNat - if s.hold = .none then 0 else 1

theorem stepsFrom_eq {p : Params} {k : Nat} (h : (referenceProgram p)[k]? = some i) :
    stepsFrom p k = promptSteps i + stepsFrom p (k + 1) := by
  obtain ⟨hk, rfl⟩ := List.getElem?_eq_some_iff.1 h
  rw [stepsFrom, List.drop_eq_getElem_cons hk, List.map_cons, List.sum_cons, stepsFrom]

theorem stepsLeft_of_atBoundary (hb : s.AtBoundary) : s.stepsLeft = 24 := by
  rw [State.stepsLeft, hb.atStepZero, hb.notHeld]
  rfl

/-- A request outstanding is a DLY's or a PULSE's, so it leaves its micro-operation at least one step. -/
theorem State.Inv.callsMade_lt_promptSteps (hs : s.Inv) (hi : fetch s = .next i) :
    (if s.hold = .none then 0 else 1) < promptSteps i := by
  by_cases hh : s.hold = .none
  · rw [if_pos hh]
    exact promptSteps_pos i
  · rw [if_neg hh]
    obtain hreq | hreq := exists_requestedBy hh <;> obtain rfl := hs.requestedBy_of_fetch hi hreq <;> decide

/-- The micro-operation at SEQ takes at least one step of those left. -/
theorem State.Inv.stepsFrom_succ_lt_stepsLeft (hs : s.Inv) (hu : s.RunsReference) (hi : fetch s = .next i) :
    stepsFrom s.params (s.seq.toNat + 1) < s.stepsLeft := by
  have hcall := hs.callsMade_lt_promptSteps hi
  rw [State.stepsLeft, stepsFrom_eq (reference_at_seq hu hi)]
  omega

/-! ### What holds a micro-operation (R28, R103, R163) -/

/-- The operation in flight that the micro-operation waits for: a conversion at WAIT, a delay at DLY, a pulse at PULSE. -/
def State.Awaits (s : State) : Instr → Prop
  | .wait => s.env.conv = .busy
  | .dly => s.hold = .sleeping
  | .pulse => s.hold = .pulsing
  | _ => False

/-- Whether the environment's move finishes whatever the micro-operation may wait for. -/
def Finish.ends (f : Finish) : Instr → Bool
  | .wait => f.conv
  | .dly => f.delay
  | .pulse => f.pulse
  | _ => true

/-- A delay runs on exactly when it ran and was not finished. -/
theorem finish_eq_sleeping {k : Hold} : k.finish f = .sleeping ↔ k = .sleeping ∧ f.delay = false := by
  cases k with
  | none | slept | pulsed => simp [Hold.finish]
  | sleeping => cases hd : f.delay <;> simp [Hold.finish, hd]
  | pulsing => cases hp : f.pulse <;> simp [Hold.finish, hp]

/-- After the environment's move a micro-operation waits exactly when it did and was not given what it waits for. -/
theorem awaits_afterMove : (envFinish f s.takeMove).Awaits i ↔ s.Awaits i ∧ f.ends i = false := by
  cases i with
  | wait => exact conv_finish_eq_busy
  | dly => exact finish_eq_sleeping
  | pulse => exact finish_eq_pulsing
  | _ => simp [State.Awaits]

@[simp] theorem stepsLeft_afterMove (f : Finish) (s : State) : (envFinish f s.takeMove).stepsLeft = s.stepsLeft := by
  simp [State.stepsLeft]

/-- DLY under the invariant waits for its delay, makes its call, or goes on. -/
theorem execDly_cases_of_inv (hs : s.Inv) (hi : fetch s = .next .dly) (h : execDly s = .next t) :
    (s.Awaits .dly ∧ t = s) ∨ (s.hold = .none ∧ t.hold ≠ .none ∧ t.seq = s.seq) ∨ (s.seq ≠ 31 ∧ t.seq = s.seq + 1) := by
  obtain ⟨hh, rfl⟩ | ⟨hh, rfl⟩ | ⟨-, hq, rfl⟩ := execDly_eq_next.1 h
  · exact .inr (.inl ⟨hh, nofun, rfl⟩)
  · refine .inl ⟨?_, rfl⟩
    obtain hsleep | hother := hh
    · exact hsleep
    · have hreq : t.hold.requestedBy = some .pulse := by obtain hp | hp := hother <;> rw [hp] <;> rfl
      exact nomatch hs.requestedBy_of_fetch hi hreq
  · exact .inr (.inr ⟨hq, rfl⟩)

/-- PULSE under the invariant waits for its pulse, makes its call, or goes on. -/
theorem execPulse_cases_of_inv (hs : s.Inv) (hi : fetch s = .next .pulse) (h : execPulse s = .next t) :
    (s.Awaits .pulse ∧ t = s) ∨ (s.hold = .none ∧ t.hold ≠ .none ∧ t.seq = s.seq) ∨ (s.seq ≠ 31 ∧ t.seq = s.seq + 1) := by
  obtain ⟨w, hh, -, -, rfl⟩ | ⟨hh, rfl⟩ | ⟨-, hq, rfl⟩ := execPulse_eq_next.1 h
  · exact .inr (.inl ⟨hh, nofun, rfl⟩)
  · refine .inl ⟨?_, rfl⟩
    obtain hpulse | hother := hh
    · exact hpulse
    · have hreq : t.hold.requestedBy = some .dly := by obtain hd | hd := hother <;> rw [hd] <;> rfl
      exact nomatch hs.requestedBy_of_fetch hi hreq
  · exact .inr (.inr ⟨hq, rfl⟩)

/-- A meaning under the invariant waits, makes the call of DLY or PULSE, goes back to step 0, or goes on. -/
theorem State.Inv.exec_cases (hs : s.Inv) (hi : fetch s = .next i) (h : exec i s = .next t) :
    (s.Awaits i ∧ t = s) ∨ (s.hold = .none ∧ t.hold ≠ .none ∧ t.seq = s.seq) ∨ t.seq = 0 ∨
    (s.seq ≠ 31 ∧ t.seq = s.seq + 1) := by
  obtain ⟨rfl | rfl | rfl, hq⟩ | ⟨-, hq⟩ | ⟨-, hgo⟩ := exec_seq_cases h
  · obtain ⟨-, hgo, rfl⟩ | ⟨hbusy, rfl⟩ := execWait_eq_next.1 h
    · exact .inr (.inr (.inr ⟨hgo, rfl⟩))
    · exact .inl ⟨hbusy, rfl⟩
  · exact (execDly_cases_of_inv hs hi h).imp_right (Or.imp_right .inr)
  · exact (execPulse_cases_of_inv hs hi h).imp_right (Or.imp_right .inr)
  · exact .inr (.inr (.inl hq))
  · exact .inr (.inr (.inr hgo))

/-- A meaning of the reference sequence waits, ends the iteration, or brings its end nearer. -/
theorem State.Inv.exec_nears_end (hs : s.Inv) (hu : s.RunsReference) (hi : fetch s = .next i) (h : exec i s = .next t) :
    (s.Awaits i ∧ t = s) ∨ t.seq = 0 ∨ t.stepsLeft < s.stepsLeft := by
  have hparams := (exec_keeps_arguments h).1
  have hnow := hs.stepsFrom_succ_lt_stepsLeft hu hi
  obtain hwait | ⟨hnone, hcall, hq⟩ | hzero | ⟨hlast, hq⟩ := hs.exec_cases hi h
  · exact .inl hwait
  · refine .inr (.inr ?_)
    have hpos : s.stepsLeft = stepsFrom s.params s.seq.toNat := by rw [State.stepsLeft, if_pos hnone]; rfl
    rw [hpos] at hnow ⊢
    rw [State.stepsLeft, hparams, hq, if_neg hcall]
    omega
  · exact .inr (.inl hzero)
  · refine .inr (.inr (lt_of_le_of_lt ?_ hnow))
    rw [State.stepsLeft, hparams, hq, toNat_succ_seq hlast]
    exact Nat.sub_le _ _

/-- A step of the reference sequence without reset ends the iteration, brings its end nearer, or is held by an operation that
the move leaves in flight. -/
theorem State.Inv.step_nears_end (hs : s.Inv) (hu : s.RunsReference) (hm : s.nextMove = .run f) (h : step s = .next t) :
    t.seq = 0 ∨ t.stepsLeft < s.stepsLeft ∨
    ∃ i, fetch s = .next i ∧ s.Awaits i ∧ f.ends i = false ∧ t = envFinish f s.takeMove := by
  obtain ⟨i, hi, hx⟩ := exec_of_step_run hm h
  have hfetch : fetch (envFinish f s.takeMove) = .next i := by rwa [fetch_afterMove]
  obtain ⟨hwait, rfl⟩ | hzero | hless := (inv_afterMove hs f).exec_nears_end hu hfetch hx
  · obtain ⟨hs', hf⟩ := awaits_afterMove.1 hwait
    exact .inr (.inr ⟨i, hi, hs', hf, rfl⟩)
  · exact .inl hzero
  · exact .inr (.inl (stepsLeft_afterMove f s ▸ hless))

/-! ### First returns, step by step (R145) -/

theorem FirstReturn.of_step (h : step s = .next t) (ht : t.seq = 0) : FirstReturn 1 s t :=
  ⟨Nat.one_pos, andThen_eq_next.2 ⟨t, h, rfl⟩, ht, fun _ _ h0 h1 => by omega⟩

theorem FirstReturn.cons (h : step s = .next t) (ht : t.seq ≠ 0) (hr : FirstReturn n t u) : FirstReturn (n + 1) s u := by
  obtain ⟨-, hrun, hzero, hbefore⟩ := hr
  refine ⟨Nat.succ_pos n, andThen_eq_next.2 ⟨t, h, hrun⟩, hzero, fun m v h0 hm hv => ?_⟩
  obtain ⟨m, rfl⟩ := Nat.exists_eq_succ_of_ne_zero h0.ne'
  obtain ⟨w, hw, hrest⟩ := andThen_eq_next.1 hv
  cases h.symm.trans hw
  obtain rfl | hpos := Nat.eq_zero_or_pos m
  · cases hrest
    exact ht
  · exact hbefore m v hpos (by omega) hrest

/-! ### A bound in moves that finish everything (R189; log entry 5) -/

/-- A step uses the head of the script and nothing more of it. -/
theorem step_moves (h : step s = .next t) : t.moves = s.moves.tail := by
  obtain ⟨e, -, rfl⟩ | ⟨f, i, -, -, hx⟩ := step_cases h
  · rfl
  · exact (exec_keeps_arguments hx).2.2.1

theorem State.RefInv.stepsLeft_pos (hs : s.RefInv) : 0 < s.stepsLeft := by
  obtain ⟨i, hi⟩ := hs.exists_fetch
  exact (Nat.zero_le _).trans_lt (hs.inv.stepsFrom_succ_lt_stepsLeft hs.runsReference hi)

theorem finishEach_ends (i : Instr) : finishEach.ends i = true := by cases i <;> rfl

/-- A step inside an iteration leaves no more steps than before, and fewer if the move finishes everything. -/
theorem State.Inv.step_spends_move (hs : s.Inv) (hu : s.RunsReference) (hm : s.nextMove = .run f) (h : step s = .next t)
    (ht : t.seq ≠ 0) : t.stepsLeft + (if EnvMove.run f == finishAll then 1 else 0) ≤ s.stepsLeft := by
  obtain hback | hless | ⟨i, -, -, hends, rfl⟩ := hs.step_nears_end hu hm h
  · exact absurd hback ht
  · split <;> omega
  · have hne : f ≠ finishEach := by
      rintro rfl
      exact absurd (finishEach_ends i) (by simp [hends])
    have hnot : (EnvMove.run f == finishAll) = false := beq_eq_false_iff_ne.2 fun heq => hne (EnvMove.run.inj heq)
    simp [hnot]

/-- Among moves without a reset, as many that finish everything as there are steps left bring the iteration to its end. -/
theorem exists_firstReturn_of_count {ms rest : List EnvMove} (hs : s.RefInv) (hno : NoReset s.moves)
    (hm : s.moves = ms ++ rest) (hcount : s.stepsLeft ≤ ms.count finishAll) :
    ∃ n t, n ≤ ms.length ∧ FirstReturn n s t := by
  induction ms generalizing s with
  | nil => exact absurd hcount (Nat.not_le.2 hs.stepsLeft_pos)
  | cons m ms ih =>
    obtain ⟨f, hf⟩ := nextMove_run hno
    obtain rfl : m = .run f := by rw [← hf, State.nextMove, hm]; rfl
    obtain ⟨t, hstep, ht⟩ := referenceSequenceIsNeverRefused.2.2 s hs
    by_cases hzero : t.seq = 0
    · exact ⟨1, t, Nat.le_add_left 1 ms.length, .of_step hstep hzero⟩
    have hspent := hs.inv.step_spends_move hs.runsReference hf hstep hzero
    rw [List.count_cons] at hcount
    obtain ⟨n, u, hn, hu⟩ := ih ht (step_keeps_noReset hno hstep) (by rw [step_moves hstep, hm]; rfl) (by omega)
    exact ⟨n + 1, u, Nat.succ_le_succ hn, hu.cons hstep hzero⟩

/-- Settles O49: at a boundary 24 steps are left. -/
theorem fairEnvironmentCompletesIterations : Obligations.FairEnvironmentCompletesIterations := by
  intro s ms rest hb hm hcount
  exact exists_firstReturn_of_count (referenceSequenceIsNeverRefused.2.1 s hb) hb.noReset hm
    ((stepsLeft_of_atBoundary hb).trans_le hcount)

/-! ### An environment that moves for ever (R171, R189) -/

/-- The environment after its first `n` moves. -/
def later (e : Nat → EnvMove) (n : Nat) : Nat → EnvMove := fun m => e (m + n)

theorem moves_under_succ (s : State) (e : Nat → EnvMove) (n : Nat) :
    (s.under e (n + 1)).moves = e 0 :: (List.range n).map (later e 1) := by
  rw [State.under, List.range_succ_eq_map, List.map_cons, List.map_map]
  rfl

theorem noReset_under (s : State) (he : NeverResets e) (n : Nat) : NoReset (s.under e n).moves := by
  intro m hm
  obtain ⟨k, -, rfl⟩ := List.mem_map.1 hm
  exact he k

/-- No meaning reads the script of moves. -/
theorem exec_of_other_moves (ms : List EnvMove) (h : exec i s = .next t) :
    exec i { s with moves := ms } = .next { t with moves := ms } := by
  cases i with
  | sel ch =>
    obtain ⟨hc, hq, rfl⟩ := execSel_eq_next.1 h
    exact execSel_eq_next.2 ⟨hc, hq, rfl⟩
  | conv =>
    obtain ⟨hch, hc, hq, rfl⟩ := execConv_eq_next.1 h
    exact execConv_eq_next.2 ⟨hch, hc, hq, rfl⟩
  | dly =>
    refine execDly_eq_next.2 ?_
    obtain ⟨hh, rfl⟩ | ⟨hh, rfl⟩ | ⟨hh, hq, rfl⟩ := execDly_eq_next.1 h
    · exact .inl ⟨hh, rfl⟩
    · exact .inr (.inl ⟨hh, rfl⟩)
    · exact .inr (.inr ⟨hh, hq, rfl⟩)
  | wait =>
    refine execWait_eq_next.2 ?_
    obtain ⟨hc, hq, rfl⟩ | ⟨hc, rfl⟩ := execWait_eq_next.1 h
    · exact .inl ⟨hc, hq, rfl⟩
    · exact .inr ⟨hc, rfl⟩
  | rd10 d =>
    obtain ⟨hc, hq, rfl⟩ := execRd10_eq_next.1 h
    exact execRd10_eq_next.2 ⟨hc, hq, by cases d <;> rfl⟩
  | rd8 =>
    obtain ⟨hc, hq, rfl⟩ := execRd8_eq_next.1 h
    exact execRd8_eq_next.2 ⟨hc, hq, rfl⟩
  | sin8 =>
    obtain ⟨hq, rfl⟩ := execSin8_eq_next.1 h
    exact execSin8_eq_next.2 ⟨hq, rfl⟩
  | usin8 =>
    obtain ⟨hq, rfl⟩ := execUsin8_eq_next.1 h
    exact execUsin8_eq_next.2 ⟨hq, rfl⟩
  | pwcalc =>
    obtain ⟨o, a, v, ho, ha, hv, hq, rfl⟩ := execPwcalc_eq_next.1 h
    exact execPwcalc_eq_next.2 ⟨o, a, v, ho, ha, hv, hq, rfl⟩
  | phadv =>
    obtain ⟨v, hv, hq, rfl⟩ := execPhadv_eq_next.1 h
    exact execPhadv_eq_next.2 ⟨v, hv, hq, rfl⟩
  | pulse =>
    refine execPulse_eq_next.2 ?_
    obtain ⟨w, hh, hw, hl, rfl⟩ | ⟨hh, rfl⟩ | ⟨hh, hq, rfl⟩ := execPulse_eq_next.1 h
    · exact .inl ⟨w, hh, hw, hl, rfl⟩
    · exact .inr (.inl ⟨hh, rfl⟩)
    · exact .inr (.inr ⟨hh, hq, rfl⟩)
  | loop =>
    obtain rfl := execLoop_eq_next.1 h
    exact execLoop_eq_next.2 rfl

/-- The first step depends on the first move only; the run goes on under the rest of the environment. -/
theorem step_under (h : step (s.under e 1) = .next t) (n : Nat) :
    step (s.under e (n + 1)) = .next (t.under (later e 1) n) := by
  have hmoves := moves_under_succ s e n
  have htake : (s.under e (n + 1)).takeMove =
      { (s.under e 1).takeMove with moves := (List.range n).map (later e 1) } := by
    rw [State.takeMove, hmoves]
    rfl
  have hnext : (s.under e (n + 1)).nextMove = (s.under e 1).nextMove := by
    rw [State.nextMove, hmoves]
    rfl
  obtain ⟨env, hm, rfl⟩ | ⟨f, i, hm, hi, hx⟩ := step_cases h
  · rw [step_reset (hnext.trans hm), htake]
    rfl
  · rw [step_run (hnext.trans hm) ((fetch_congr rfl rfl).trans hi), htake]
    exact exec_of_other_moves _ hx

/-- From `s`, which meets the invariant of the reference sequence, the environment `e` never holds reset and finishes every
operation that the run waits for: F1, F2 and F3 as one. -/
structure FairFrom (e : Nat → EnvMove) (s : State) : Prop where
  refInv : s.RefInv
  neverResets : NeverResets e
  finishes : ∀ n u i, steps n (s.under e n) = .next u → u.Awaits i → ∃ m, n ≤ m ∧ (e m).finish.ends i = true

/-- Each micro-operation that waits has one of F1, F2 and F3 as its premise. -/
theorem fairFrom_of_premises (hs : s.RefInv) (he : NeverResets e) (hconv : ConversionsComplete e s)
    (hsleep : SleepsReturn e s) (hpulse : PulsesReturn e s) : FairFrom e s where
  refInv := hs
  neverResets := he
  finishes n u i hu hi := by
    cases i with
    | wait => exact hconv n u hu hi
    | dly => exact hsleep n u hu hi
    | pulse => exact hpulse n u hu hi
    | _ => exact hi.elim

/-- The script of moves is in the invariant for its resets alone. -/
theorem State.RefInv.under (hs : s.RefInv) (he : NeverResets e) (n : Nat) : (s.under e n).RefInv :=
  { hs with inv := { hs.inv with resetsReleaseReady := resetsReleaseReady_of_noReset (noReset_under s he n) } }

/-- A step under a fair environment leads to a state from which the rest of the environment is fair. -/
theorem FairFrom.exists_step (h : FairFrom e s) : ∃ t, step (s.under e 1) = .next t ∧ FairFrom (later e 1) t := by
  obtain ⟨t, hstep, ht⟩ := referenceSequenceIsNeverRefused.2.2 _ (h.refInv.under h.neverResets 1)
  refine ⟨t, hstep, ht, fun n => h.neverResets (n + 1), fun n u i hu hi => ?_⟩
  obtain ⟨m, hm, hends⟩ := h.finishes (n + 1) u i (andThen_eq_next.2 ⟨_, step_under hstep n, hu⟩) hi
  obtain ⟨m, rfl⟩ := Nat.exists_eq_add_of_le' (Nat.one_le_of_lt hm)
  exact ⟨m, Nat.le_of_succ_le_succ hm, hends⟩

/-- The run under `e` comes back to step 0, however many more moves the script holds, and the rest of `e` is fair from
there. -/
def Returns (e : Nat → EnvMove) (s : State) : Prop :=
  ∃ n t, FairFrom (later e n) t ∧ ∀ k, FirstReturn n (s.under e (k + n)) (t.under (later e n) k)

/-- A run comes back when its first step does, or when the run after that step does. -/
theorem returns_of_step (ht : FairFrom (later e 1) t) (hstep : step (s.under e 1) = .next t)
    (hrest : t.seq ≠ 0 → Returns (later e 1) t) : Returns e s := by
  by_cases hzero : t.seq = 0
  · exact ⟨1, t, ht, fun k => .of_step (step_under hstep k) hzero⟩
  · obtain ⟨n, u, hu, hreturn⟩ := hrest hzero
    exact ⟨n + 1, u, hu, fun k => (hreturn k).cons (step_under hstep (k + n)) hzero⟩

/-- A run comes back if every run with fewer steps left does: a micro-operation that waits is held until the move that finishes
what it waits for, by induction on when that move comes. -/
theorem returns_of_fewer_steps {d m : Nat} (hfewer : ∀ e' s', FairFrom e' s' → s'.stepsLeft < d → Returns e' s')
    (hs : FairFrom e s) (hd : s.stepsLeft = d)
    (hm : ∀ i, fetch s = .next i → s.Awaits i → ∃ k < m, (e k).finish.ends i = true) : Returns e s := by
  induction m using Nat.strong_induction_on generalizing s e with
  | h m ih =>
    obtain ⟨f, hf⟩ := nextMove_run (noReset_under s hs.neverResets 1)
    have hmove : (e 0).finish = f := by rw [show e 0 = .run f from hf]; rfl
    obtain ⟨t, hstep, ht⟩ := hs.exists_step
    refine returns_of_step ht hstep fun hzero => ?_
    obtain hback | hless | ⟨i, hi, hwait, hends, rfl⟩ :=
      (hs.refInv.under hs.neverResets 1).inv.step_nears_end hs.refInv.runsReference hf hstep
    · exact absurd hback hzero
    · exact hfewer _ _ ht (hd ▸ hless)
    · obtain ⟨k, hk, hfin⟩ := hm i hi hwait
      obtain _ | k := k
      · rw [hmove, hends] at hfin
        cases hfin
      · refine ih (k + 1) hk ht ((stepsLeft_afterMove f _).trans hd) fun j hj _ => ⟨k, Nat.lt_succ_self k, ?_⟩
        cases hi.symm.trans ((fetch_afterMove f _).symm.trans hj)
        exact hfin

/-- The micro-operation at SEQ, if it waits, is given what it waits for by one of the first so many moves. -/
theorem FairFrom.exists_bound (hs : FairFrom e s) :
    ∃ m, ∀ i, fetch s = .next i → s.Awaits i → ∃ k < m, (e k).finish.ends i = true := by
  obtain ⟨i, hi⟩ := hs.refInv.exists_fetch
  by_cases hwait : s.Awaits i
  · obtain ⟨m, -, hm⟩ := hs.finishes 0 (s.under e 0) i rfl hwait
    refine ⟨m + 1, fun j hj _ => ⟨m, Nat.lt_succ_self m, ?_⟩⟩
    cases hi.symm.trans hj
    exact hm
  · refine ⟨0, fun j hj hwait' => ?_⟩
    cases hi.symm.trans hj
    exact absurd hwait' hwait

/-- Under a fair environment the run comes back, by induction on the steps left. -/
theorem FairFrom.returns (hs : FairFrom e s) : Returns e s := by
  induction hd : s.stepsLeft using Nat.strong_induction_on generalizing s e with
  | h d ih =>
    obtain ⟨m, hm⟩ := hs.exists_bound
    exact returns_of_fewer_steps (fun _ _ h' hless => ih _ hless h' rfl) hs hd hm

/-- Iterations one after the other, each coming back under what the ones before have left of the environment. -/
theorem FairFrom.iterates (hs : FairFrom e s) (hb : ∀ n, (s.under e n).AtBoundary) (k : Nat) :
    ∃ (n : Nat) (xs : List Samples) (t : State), xs.length = k ∧ IteratesWith xs (s.under e n) t := by
  induction k generalizing s e with
  | zero => exact ⟨0, [], _, rfl, rfl⟩
  | succ k ih =>
    obtain ⟨n, u, hu, hreturn⟩ := hs.returns
    have hend := fun m => iterationEnd_of_firstReturn (hb (m + n)) (hreturn m)
    obtain ⟨m, xs, t, hlen, hrest⟩ := ih hu fun m => (hend m).elim fun _ hx => hx.atBoundary
    obtain ⟨x, hx⟩ := hend m
    exact ⟨m + n, x :: xs, t, congrArg Nat.succ hlen, n, _, hreturn m, hx.offset, hx.speed, hx.ampl, hrest⟩

/-- A boundary stays one under any moves that hold no reset. -/
theorem State.AtBoundary.under (hb : s.AtBoundary) (he : NeverResets e) (n : Nat) : (s.under e n).AtBoundary :=
  { hb with noReset := noReset_under s he n }

/-- Settles O55: F1, F2 and F3 are the premise for each micro-operation that waits, so every iteration comes back. -/
theorem everyIterationCompletesUnderF1F2F3 : Obligations.EveryIterationCompletesUnderF1F2F3 := by
  intro s e hb he hconv hsleep hpulse
  exact (fairFrom_of_premises (referenceSequenceIsNeverRefused.2.1 s hb) he hconv hsleep hpulse).iterates (hb.under he)

end Sys2Proof.Machine
end
